-- ==== Sys2Proof/Word.lean ====
section
/-! DEFINITION. The words the block moves: one byte on the bus and in the framebuffer, one 32-bit word on the
command port, the CSR port and the tick input (spec/20_memory.md R54). -/

namespace Sys2Proof

/-- One byte: every datum on the bus and in `FB` (R54). -/
abbrev Byte := BitVec 8

/-- A 32-bit value: a command word (R80), a CSR view (R30) or the tick counter (R172). -/
abbrev Word := BitVec 32

end Sys2Proof
end

