-- ==== Sys2Proof/Config.lean ====
section
/-! DEFINITION. The parameters the source leaves open (spec/00_scope.md R7) as one plain record, and the free
values: constants with no body, of which nothing can be proved (log entries 2, 3, 4, 5). -/

namespace Sys2Proof

/-- `ERR_MODE` (R7): hang on a NACK, or report it. -/
inductive ErrMode where
  | legacyHang
  | report
  deriving DecidableEq, Repr

/-- The eight parameters of R7. They are configuration: no step writes them (R35, R39). They stand in `State`
because the host's `step` has no other argument, so a claim over all states is a claim over all parameters. -/
structure Params where
  /-- `ERR_MODE`. -/
  errMode : ErrMode
  /-- `POLL_TIMEOUT`, ticks, 1 .. 2^32-1; read in `REPORT` mode only (R168). -/
  pollTimeout : Word
  /-- `BRG_VALUE`, loaded into `BRG` by `I2C_SETUP` (R103). -/
  brgValue : BitVec 16
  /-- `SETTLE_TICKS`, the settle delay of `OLED_SETUP` (R145). -/
  settleTicks : Word
  /-- `OLED_ADDR7`, the display's 7-bit address. -/
  oledAddr7 : BitVec 7
  /-- `INIT_SEQ`, 0 to 255 bytes (R146). -/
  initSeq : List Byte
  /-- `WINDOW_SEQ`, 0 to 255 bytes (R149). -/
  windowSeq : List Byte
  /-- `GLYPH`: the listed cells of the read-only table, column `i` of code `c` at `c * 5 + i` (R35). A cell that is
  not listed is open: it reads as the free byte `Config.glyphByte c i`. -/
  glyph : List Host.Cell
  deriving DecidableEq, Repr

/-- FREE VALUE (U8, log entry 3). What byte `i` of `FB` holds after reset number `epoch` until it is written:
"unspecified: each byte holds an arbitrary value" (R38). -/
opaque Config.fbAtReset : (epoch : Nat) → (i : Nat) → Byte

/-- FREE VALUE (N12, log entry 4). Column `i` of the glyph of code `c`, where the parameter lists none:
"`GLYPH` | function from 8-bit code to 5 bytes | none (OPEN)" (R7). -/
opaque Config.glyphByte : (c : Nat) → (i : Nat) → Byte

/-- FREE VALUE (U9, log entry 5). What the framebuffer port answers to read number `n` of index `i` while a
command is in flight: "a read returns an unspecified byte" (R34). -/
opaque Config.fbPortByte : (n : Nat) → (i : Nat) → Byte

/-- FREE VALUE (log entry 2). `BRG_VALUE` has no default (R7). -/
opaque Config.brgValue : BitVec 16

/-- FREE VALUE (log entry 2). `SETTLE_TICKS` has no default (R7). -/
opaque Config.settleTicks : Word

/-- FREE VALUE (log entry 2). `POLL_TIMEOUT` less 1: the parameter ranges over 1 .. 2^32-1 and has no default (R7). -/
opaque Config.pollTimeoutLessOne : Fin 4294967295

end Sys2Proof
end

