-- ==== Sys2Proof/Syntax.lean ====
section
/-! DEFINITION. The seventeen commands, one constructor per row of spec/opcode_table.json (spec/30_encoding.md
R81, R83). Field widths are those of R81. -/

namespace Sys2Proof

/-- A command. `oledMsg` carries its payload: the character codes, first character first (R86). -/
inductive Instr where
  | i2cSetup
  | i2cStart
  | i2cRestart
  | i2cSend (byte : Byte)
  | i2cRecv
  | i2cAck (a : BitVec 1)
  | i2cStop
  | i2cWrreg (dev : BitVec 7) (reg v : Byte)
  | i2cRdreg (dev : BitVec 7) (reg : Byte)
  | i2cRdmult (dev : BitVec 7) (reg count : Byte)
  | oledSetup
  | oledCmd (byte : Byte)
  | oledPixel (x y color : Byte)
  | oledClear
  | oledUpdate
  | oledLetter (x y ch : Byte)
  | oledMsg (x y : Byte) (text : List Byte)
  deriving DecidableEq, Repr

end Sys2Proof
end

