-- ==== Sys2Proof/WellFormed.lean ====
section
/-! DEFINITION. What the types of a command and of the parameters do not already say. -/

namespace Sys2Proof

/-- A command that has an encoding. Every field has the width of its format, so the one check is that the message
length fits the 8-bit `len` field: "`len` (0 to 255)" (R86). A count of 0 in `I2C_RDMULT` is encodable; it is
refused at accept by the `OPERAND` fault (R123), not here. -/
def Instr.wf : Instr → Bool
  | .oledMsg _ _ text => decide (text.length ≤ 255)
  | .i2cSetup | .i2cStart | .i2cRestart | .i2cSend _ | .i2cRecv | .i2cAck _ | .i2cStop
  | .i2cWrreg _ _ _ | .i2cRdreg _ _ | .i2cRdmult _ _ _ | .oledSetup | .oledCmd _
  | .oledPixel _ _ _ | .oledClear | .oledUpdate | .oledLetter _ _ _ => true

/-- A list of cells in canonical form: addresses strictly rising, all in `lo .. hi-1`. -/
def cellsWfFrom (lo hi : Nat) : List Host.Cell → Bool
  | [] => true
  | (a, _) :: m => decide (lo ≤ a) && decide (a < hi) && cellsWfFrom (a + 1) hi m

/-- The ranges R7 gives the parameters: `POLL_TIMEOUT` at least 1, both byte lists at most 255 long, the listed
glyph cells in canonical form inside the 256 x 5 table (R50). -/
def Params.wf (p : Params) : Bool :=
  decide (p.pollTimeout ≠ 0) && decide (p.initSeq.length ≤ 255) && decide (p.windowSeq.length ≤ 255)
    && cellsWfFrom 0 1280 p.glyph

end Sys2Proof
end

