-- ==== Sys2Proof/Decode.lean ====
section
/-! DEFINITION. Decoding a stream of command words, total, and after it the encoder (spec/30_encoding.md R80 to
R86). Decoding reads no state (R90). -/

namespace Sys2Proof

/-- What the decoder makes of the words at the front of a stream. -/
inductive Decoded where
  /-- A command, and the words after it. -/
  | instr (i : Instr) (rest : List Word)
  /-- A first word that matches no row, or a payload word with one of bits 31:8 set: `ILLEGAL_CMD` (R84, R85). -/
  | illegal
  /-- The stream ends before the command does: "a command not yet presented" (R86). -/
  | more
  deriving DecidableEq, Repr

/-! ### Fields (R81, R82) -/

/-- Bits 31:24: the opcode of every format (R80). -/
def opField (w : Word) : Byte := w.extractLsb' 24 8

/-- Bits 23:16: `x` of format `XYV`. -/
def xField (w : Word) : Byte := w.extractLsb' 16 8

/-- Bits 15:8: `y` of format `XYV`, `reg` of formats `DRV` and `DR`. -/
def yField (w : Word) : Byte := w.extractLsb' 8 8

/-- Bits 7:0: `byte`, `v`, `count`, `color`, `ch` or `len`. -/
def vField (w : Word) : Byte := w.extractLsb' 0 8

/-- Bits 22:16: `dev` of formats `DRV` and `DR`. -/
def devField (w : Word) : BitVec 7 := w.extractLsb' 16 7

/-- Bit 0: `a` of format `A`. -/
def aField (w : Word) : BitVec 1 := w.extractLsb' 0 1

/-! ### The rows of the table (R83) -/

/-- "a word `w` selects the row whose `(w & mask) = match`" (R83); the masks include the reserved bits. -/
def rowHit (mask pattern w : Word) : Bool := w &&& mask == pattern

/-- The single-word commands: every row but `OLED_MSG`, in the table's order. -/
def decodeWord (w : Word) : Option Instr :=
  if rowHit 0xFFFFFFFF 0x10000000 w then some .i2cSetup
  else if rowHit 0xFFFFFFFF 0x11000000 w then some .i2cStart
  else if rowHit 0xFFFFFFFF 0x12000000 w then some .i2cRestart
  else if rowHit 0xFFFFFF00 0x13000000 w then some (.i2cSend (vField w))
  else if rowHit 0xFFFFFFFF 0x14000000 w then some .i2cRecv
  else if rowHit 0xFFFFFFFE 0x15000000 w then some (.i2cAck (aField w))
  else if rowHit 0xFFFFFFFF 0x16000000 w then some .i2cStop
  else if rowHit 0xFF800000 0x18000000 w then some (.i2cWrreg (devField w) (yField w) (vField w))
  else if rowHit 0xFF8000FF 0x19000000 w then some (.i2cRdreg (devField w) (yField w))
  else if rowHit 0xFF800000 0x1A000000 w then some (.i2cRdmult (devField w) (yField w) (vField w))
  else if rowHit 0xFFFFFFFF 0x20000000 w then some .oledSetup
  else if rowHit 0xFFFFFF00 0x21000000 w then some (.oledCmd (vField w))
  else if rowHit 0xFF000000 0x22000000 w then some (.oledPixel (xField w) (yField w) (vField w))
  else if rowHit 0xFFFFFFFF 0x23000000 w then some .oledClear
  else if rowHit 0xFFFFFFFF 0x24000000 w then some .oledUpdate
  else if rowHit 0xFF000000 0x25000000 w then some (.oledLetter (xField w) (yField w) (vField w))
  else none

/-- The `OLED_MSG` header row: `op = 0x26` (R86). -/
def isMsgHeader (w : Word) : Bool := rowHit 0xFF000000 0x26000000 w

/-- A payload word of format `C` is legal if bits 31:8 are 0 (R81, R84). -/
def payloadLegal (w : Word) : Bool := rowHit 0xFFFFFF00 0x00000000 w

/-- How many payload words follow a first word (R80, R86). -/
def payloadCount (w : Word) : Nat := if isMsgHeader w then (vField w).toNat else 0

/-- The decoder of a word stream (R86): `decode(w :: ws) = (OLED_MSG x y (take len ws), drop len ws)` for a header,
one word for every other command. The legality of the payload is judged when all of it is there: "keeps accepting
words until it has `len` of them, then executes" (log entry 7). -/
def decode : List Word → Decoded
  | [] => .more
  | w :: ws =>
    if isMsgHeader w then
      if ws.length < payloadCount w then .more
      else if (ws.take (payloadCount w)).all payloadLegal then
        .instr (.oledMsg (xField w) (yField w) ((ws.take (payloadCount w)).map vField)) (ws.drop (payloadCount w))
      else .illegal
    else
      match decodeWord w with
      | some i => .instr i ws
      | none => .illegal

/-! ### The encoder (R81, R83) -/

/-- The opcode of a command (R83). -/
def opcode : Instr → Byte
  | .i2cSetup => 0x10
  | .i2cStart => 0x11
  | .i2cRestart => 0x12
  | .i2cSend _ => 0x13
  | .i2cRecv => 0x14
  | .i2cAck _ => 0x15
  | .i2cStop => 0x16
  | .i2cWrreg _ _ _ => 0x18
  | .i2cRdreg _ _ => 0x19
  | .i2cRdmult _ _ _ => 0x1A
  | .oledSetup => 0x20
  | .oledCmd _ => 0x21
  | .oledPixel _ _ _ => 0x22
  | .oledClear => 0x23
  | .oledUpdate => 0x24
  | .oledLetter _ _ _ => 0x25
  | .oledMsg _ _ _ => 0x26

/-- The field `v` placed with its bit 0 at bit `n` of a word. -/
def place {k : Nat} (n : Nat) (v : BitVec k) : Word := v.setWidth 32 <<< n

/-- Format `Z`. -/
def fmtZ (op : Byte) : Word := place 24 op

/-- Format `B`; with opcode 0 it is also format `C`, a payload word. -/
def fmtB (op b : Byte) : Word := place 24 op ||| place 0 b

/-- Format `A`. -/
def fmtA (op : Byte) (a : BitVec 1) : Word := place 24 op ||| place 0 a

/-- Format `DRV`; with `v = 0` it is format `DR`. -/
def fmtDRV (op : Byte) (dev : BitVec 7) (reg v : Byte) : Word :=
  place 24 op ||| place 16 dev ||| place 8 reg ||| place 0 v

/-- Format `XYV`. -/
def fmtXYV (op x y v : Byte) : Word := place 24 op ||| place 16 x ||| place 8 y ||| place 0 v

/-- The words of a command, in the order they go to the command port. -/
def encode (i : Instr) : List Word :=
  match i with
  | .i2cSetup | .i2cStart | .i2cRestart | .i2cRecv | .i2cStop | .oledSetup | .oledClear | .oledUpdate =>
    [fmtZ (opcode i)]
  | .i2cSend b | .oledCmd b => [fmtB (opcode i) b]
  | .i2cAck a => [fmtA (opcode i) a]
  | .i2cWrreg dev reg v | .i2cRdmult dev reg v => [fmtDRV (opcode i) dev reg v]
  | .i2cRdreg dev reg => [fmtDRV (opcode i) dev reg 0]
  | .oledPixel x y v | .oledLetter x y v => [fmtXYV (opcode i) x y v]
  | .oledMsg x y text => fmtXYV (opcode i) x y (BitVec.ofNat 8 text.length) :: text.map (fmtB 0)

/-! ### An instruction of the opcode table, given as one number -/

/-- The first `n` words of a number, least significant first. -/
def numberWords : Nat → Nat → List Word
  | 0, _ => []
  | n + 1, w => BitVec.ofNat 32 w :: numberWords n (w / 4294967296)

/-- The words of the instruction whose low `nbits` bits are `w` and whose other bits are 0: its first word and as
many payload words as that word asks for (at most 255: R86). -/
def tableWords (nbits w : Nat) : List Word :=
  let ws := numberWords 256 (w % 2 ^ nbits)
  match ws with
  | [] => []
  | h :: t => h :: t.take (payloadCount h)

/-- The instruction the decoder reads from a row's bits, numbered as spec/opcode_table.json numbers them. -/
def decodeTableWord (nbits w : Nat) : Option Instr :=
  match decode (tableWords nbits w) with
  | .instr i _ => some i
  | .illegal => none
  | .more => none

end Sys2Proof
end

