-- ==== Sys2Proof/Machine/Defaults.lean ====
section
/-! DEFINITION. The constants of spec/00_scope.md R6 and the default parameters of R7, R146 and R149. -/

namespace Sys2Proof.Machine

/-- `FB_W`: framebuffer width in pixels (R6). -/
def fbW : Nat := 128

/-- `FB_H`: framebuffer height in pixels (R6). -/
def fbH : Nat := 32

/-- `PAGE_H`: pixel rows per page (R6). -/
def pageH : Nat := 8

/-- `FB_BYTES` (R6). -/
def fbBytes : Nat := 512

/-- `GLYPH_W`: glyph columns (R6). -/
def glyphW : Nat := 5

/-- `GLYPH_H`: glyph rows (R6). -/
def glyphH : Nat := 8

/-- `PITCH`: x advance per character (R6). -/
def pitch : Nat := 5

/-- `LINE_H`: y advance per line wrap (R6). -/
def lineH : Nat := 8

/-- `CTRL_CMD`: control byte before a command byte (R6, R142). -/
def ctrlCmd : Byte := 0x00

/-- `CTRL_DATA`: control byte before pixel data (R6, R142). -/
def ctrlData : Byte := 0x40

/-- The default `INIT_SEQ`: the 23 bytes of R146, in order. -/
def defaultInitSeq : List Byte :=
  [0xAE, 0xD5, 0x80, 0xA8, 0x1F, 0xD3, 0x00, 0x40, 0x8D, 0x14, 0x20, 0x00]
    ++ [0xA1, 0xC8, 0xDA, 0x02, 0x81, 0x8F, 0xD9, 0xF1, 0xDB, 0x40, 0xAF]

/-- The default `WINDOW_SEQ` (R149). -/
def defaultWindowSeq : List Byte := [0x22, 0x00, 0xFF, 0x21, 0x00, 0x7F]

/-- The parameters a machine starts with (log entry 2): the defaults of R7 where it gives one; a free constant for
`BRG_VALUE`, `SETTLE_TICKS`, `POLL_TIMEOUT`; no listed cell of `GLYPH`, so that all of it is open. -/
def defaultParams : Params :=
  { errMode := .legacyHang
    pollTimeout := BitVec.ofNat 32 (Config.pollTimeoutLessOne.val + 1)
    brgValue := Config.brgValue
    settleTicks := Config.settleTicks
    oledAddr7 := 0x3C
    initSeq := defaultInitSeq
    windowSeq := defaultWindowSeq
    glyph := [] }

end Sys2Proof.Machine
end

