-- ==== Sys2Proof/Machine/State.lean ====
section
/-! DEFINITION. The state of the block and of the agents around it, as plain data (spec/10_state.md), the state
after reset (R38), and the reasons a step can stop. -/

namespace Sys2Proof.Machine

/-- `ts`, the transaction state (R26). Codes 11 to 15 never occur and have no constructor (U11). -/
inductive TxState where
  | idle
  | startSent
  | addrSentW
  | dataSent
  | restartSent
  | addrSentR
  | dataRecv
  | recvAcked
  | recvNacked
  | stopSent
  | nacked
  deriving DecidableEq, Repr

/-- `st` and the entries of `CPL` (R28, R36). -/
inductive Status where
  | ok
  | nack
  | timeout
  deriving DecidableEq, Repr

/-- What the `FAULT` register records (R29, R161). Codes 6 to 15 are never recorded. -/
inductive Cause where
  | noFault
  | illegalCmd
  | operand
  | notEnabled
  | seq
  | timeout
  deriving DecidableEq, Repr

/-- The function an `FBDRAW(f)` carries (R100), named: the drawing commands have these three (R131, R133, R134).
Its meaning is `drawOn` (Machine/Draw.lean). -/
inductive Draw where
  | pixel (x y color : Byte)
  | letter (x y ch : Byte)
  | message (x y : Byte) (text : List Byte)
  deriving DecidableEq, Repr

/-- The micro-operations (R100): seven for the bus, `DELAY`, and the local ones. -/
inductive MicroOp where
  | start
  | restart
  | send (b : Byte)
  | sendFb (i : BitVec 9)
  | recv
  | ack (a : BitVec 1)
  | stop
  | enable
  | fbClear
  | fbDraw (d : Draw)
  | delay (n : Word)
  deriving DecidableEq, Repr

/-- `wst` (R28). A `SENDFB(i)` waits as the `SEND(b)` it has become: "at its issue step `b <- FB[i]`; then exactly
`SEND(b)`" (R144). -/
inductive Wait where
  | ready
  | waiting (m : MicroOp)
  deriving DecidableEq, Repr

/-- The alphabet of `BUS` (R64): `S`, `Sr`, `P`, `TX(b, a)`, `RX(d)`, `MA(a)`, `RST`. -/
inductive BusEvent where
  | s
  | sr
  | p
  | tx (b : Byte) (a : BitVec 1)
  | rx (d : Byte)
  | ma (a : BitVec 1)
  | rst
  deriving DecidableEq, Repr

/-- The completions the bus environment performs, with the values it chooses (R65). -/
inductive EnvAct where
  | startDone
  | restartDone
  | stopDone
  | txDone (a : BitVec 1)
  | rxDone (d : Byte)
  | ackDone
  deriving DecidableEq, Repr

/-- Which agent moves in a step (R11), where the order of the agents is not the default one (log entry 1). -/
inductive Turn where
  /-- The block: `ISSUE`, `RETIRE` or `TIMEOUT`. -/
  | block
  /-- The bus environment, or for `DELAY` the tick source: `COMPLETE`. -/
  | env
  /-- The host presents its next word. -/
  | host
  /-- The tick source adds `n` to `tick` (R172). -/
  | tick (n : Word)
  /-- The reset input (R180). -/
  | reset
  /-- The host reads a CSR view (R31). -/
  | readCsr (i : BitVec 4)
  /-- The host reads the framebuffer port (R34). -/
  | readFb (i : BitVec 9)
  deriving DecidableEq, Repr

/-- One answer of a read port, with the index it was asked for. -/
inductive PortRead where
  | csr (i : BitVec 4) (v : Word)
  | fb (i : BitVec 9) (v : Byte)
  deriving DecidableEq, Repr

/-- Framebuffer contents: the bytes written since the last reset, in canonical form (addresses strictly rising,
below 512). A byte that is not listed is unspecified and reads as a free value (`fbGet`, log entry 3). -/
abbrev Mem := List Host.Cell

/-- Everything the spec gives the machine, and the agents around it (INVENTORY.md, State). -/
structure State where
  /-- `ON` (R25). -/
  on : Bool
  /-- `BRG` (R25). -/
  brg : BitVec 16
  /-- `SEN` (R23). -/
  sen : Bool
  /-- `RSEN` (R23). -/
  rsen : Bool
  /-- `PEN` (R23). -/
  pen : Bool
  /-- `RCEN` (R23). -/
  rcen : Bool
  /-- `ACKEN` (R23). -/
  acken : Bool
  /-- `ACKDT` (R23): 0 ACK, 1 NACK. -/
  ackdt : BitVec 1
  /-- `TRSTAT` (R24). -/
  trstat : Bool
  /-- `ACKSTAT` (R24): 0 acknowledged, 1 not. -/
  ackstat : BitVec 1
  /-- `RBF` (R24). -/
  rbf : Bool
  /-- `TRN` (R21). -/
  trn : Byte
  /-- `RCV` (R21). -/
  rcv : Byte
  /-- `ts` (R26). -/
  ts : TxState
  /-- `busy` (R22). -/
  busy : Bool
  /-- `uq`, head first (R22). -/
  uq : List MicroOp
  /-- `upc` (R22). -/
  upc : BitVec 16
  /-- `wst` (R28). -/
  wst : Wait
  /-- `t0` (R28). -/
  t0 : Word
  /-- `st` (R28). -/
  st : Status
  /-- The latched header and payload words of an `OLED_MSG` whose payload is not complete (R37 (b), R86); empty when
  the block is not collecting. -/
  latched : List Word
  /-- `HUNG` (R29). -/
  hung : Bool
  /-- `FAULT` (R29). -/
  fault : Cause
  /-- `FB` (R32). -/
  fb : Mem
  /-- THE MODEL'S OWN: how many times reset has made `FB` unspecified (log entry 3). -/
  fbEpoch : Nat
  /-- `BUS`, oldest first (R36, R64). -/
  bus : List BusEvent
  /-- `RSP`, oldest first (R36). -/
  rsp : List Byte
  /-- `CPL`, oldest first (R36). -/
  cpl : List Status
  /-- `tick`, the tick source's counter (R172). -/
  tick : Word
  /-- The configuration (R7, R39). -/
  params : Params
  /-- The words the host will still present, first first (R39: the program; log entry 1). -/
  hostQ : List Word
  /-- The completions the environment will still perform, first first (R65; log entry 1). -/
  envQ : List EnvAct
  /-- Whose turn the next steps are; empty means the default order (R11; log entry 1). -/
  sched : List Turn
  /-- What the read ports have answered, oldest first (R31, R34; log entry 5). -/
  reads : List PortRead
  deriving DecidableEq, Repr

/-- The machine after reset (R38), nothing presented and nothing answered yet. The traces start empty and `tick` at
0: R38 says only that a reset leaves them alone (log entry 10). -/
def State.reset : State :=
  { on := false, brg := 0
    sen := false, rsen := false, pen := false, rcen := false, acken := false, ackdt := 0
    trstat := false, ackstat := 0, rbf := false
    trn := 0, rcv := 0
    ts := .idle
    busy := false, uq := [], upc := 0, wst := .ready, t0 := 0, st := .ok, latched := []
    hung := false, fault := .noFault
    fb := [], fbEpoch := 0
    bus := [], rsp := [], cpl := []
    tick := 0
    params := defaultParams
    hostQ := [], envQ := [], sched := [], reads := [] }

/-- A stop of the machine that the spec does not describe as a state. There is none: a fault of the block is the
`FAULT` register and a halted block (R162), a hang is `HUNG` (R165), a stuck wait is the wait state (R166), all of
them next states of `step`. Nothing raises a value of this type (safe: there is nothing to raise). -/
inductive Fault where
  deriving DecidableEq, Repr

/-- A command without a meaning. -/
inductive Refusal where
  /-- Raised by an arm of `exec` for a command that has no meaning yet; no arm raises it (safe: it would stop the
  machine where the hardware goes on). -/
  | notModelled (mnemonic : String)
  deriving DecidableEq, Repr

end Sys2Proof.Machine
end

