-- ==== Sys2Proof/Machine/Ops.lean ====
section
/-! DEFINITION. The named operations over memory and registers; fault entry and, beside it, reset, which is the only
way back (spec/60_exceptions.md R162, R163; spec/70_reset_and_hazards.md R180). -/

namespace Sys2Proof.Machine

/-! ### Cells -/

/-- The byte listed at an address. -/
def memFind (a : Nat) : Mem → Option Byte
  | [] => none
  | (b, v) :: m => if a = b then some v else memFind a m

/-- Write one byte, keeping the canonical form. -/
def memPut (a : Nat) (v : Byte) : Mem → Mem
  | [] => [(a, v)]
  | (b, w) :: m =>
    if a < b then (a, v) :: (b, w) :: m
    else if a = b then (a, v) :: m
    else (b, w) :: memPut a v m

/-- The canonical form of framebuffer contents: addresses strictly rising, below 512 (R32). -/
def memWf (m : Mem) : Bool := cellsWfFrom 0 fbBytes m

/-- `FB[i]`: the byte written there since the last reset, or else the unspecified byte that reset left (R38, U8). -/
def fbGet (epoch : Nat) (m : Mem) (i : Nat) : Byte := (memFind i m).getD (Config.fbAtReset epoch i)

/-- `FB` after `FBCLEAR`: every byte 0 (R132). -/
def fbZero : Mem := (List.range fbBytes).map fun i => (i, 0)

/-- `FB[i]` in a state. -/
def State.fbByte (s : State) (i : Nat) : Byte := fbGet s.fbEpoch s.fb i

/-- `GLYPH(c)[i]`: the listed cell, or else the open byte (R35). -/
def glyph (p : Params) (c : Byte) (i : Nat) : Byte :=
  (memFind (c.toNat * glyphW + i) p.glyph).getD (Config.glyphByte c.toNat i)

/-! ### Codes shown on the CSR port -/

/-- The 4-bit code of `ts` (R26). -/
def TxState.code : TxState → BitVec 4
  | .idle => 0
  | .startSent => 1
  | .addrSentW => 2
  | .dataSent => 3
  | .restartSent => 4
  | .addrSentR => 5
  | .dataRecv => 6
  | .recvAcked => 7
  | .recvNacked => 8
  | .stopSent => 9
  | .nacked => 10

/-- The 2-bit code of `st` (R28). -/
def Status.code : Status → BitVec 2
  | .ok => 0
  | .nack => 1
  | .timeout => 2

/-- The 4-bit fault code (R161). -/
def Cause.code : Cause → BitVec 4
  | .noFault => 0
  | .illegalCmd => 1
  | .operand => 2
  | .notEnabled => 3
  | .seq => 4
  | .timeout => 5

/-! ### Small updates -/

/-- `bus_emit(e)` (R9). -/
def State.emit (s : State) (e : BusEvent) : State := { s with bus := s.bus ++ [e] }

/-- `RSP.push(b)` (R9). -/
def State.pushRsp (s : State) (b : Byte) : State := { s with rsp := s.rsp ++ [b] }

/-- `CPL.push(c)` (R9). -/
def State.pushCpl (s : State) (c : Status) : State := { s with cpl := s.cpl ++ [c] }

/-- `t0 <- tick; wst <- WAITING(m)` (R101, `ISSUE`). -/
def State.arm (s : State) (m : MicroOp) : State := { s with t0 := s.tick, wst := .waiting m }

/-- `wst <- READY; uq <- rest; upc <- upc + 1` (R101, `COMPLETE`, and a local `ISSUE`). -/
def State.finish (s : State) : State := { s with wst := .ready, uq := s.uq.tail, upc := s.upc + 1 }

/-- `busy <- 1; upc <- 0; st <- OK; uq <- expand` (R87). -/
def State.load (s : State) (q : List MicroOp) : State := { s with busy := true, upc := 0, st := .ok, uq := q }

/-- The environment's next completion is used up. -/
def State.answered (s : State) : State := { s with envQ := s.envQ.tail }

/-- The host's next word has left the host. -/
def State.presented (s : State) : State := { s with hostQ := s.hostQ.tail }

/-- The turn at the head of the schedule is used up. -/
def State.turned (s : State) : State := { s with sched := s.sched.tail }

/-- The latched words are given up, the block is free. -/
def State.unlatched (s : State) : State := { s with latched := [], busy := false }

/-- Elapsed time of the wait: `(tick - t0) mod 2^32` (R172, R136 (f)). -/
def State.elapsed (s : State) : Word := s.tick - s.t0

/-! ### Fault entry, hang, and the way back -/

/-- `raise Fault(code)` (R162): the first code is kept, `busy` stays 1, nothing else changes. -/
def State.raiseFault (s : State) (c : Cause) : State :=
  { s with fault := if s.fault = .noFault then c else s.fault, busy := true }

/-- `hang` (R107, R165): `wst <- READY; HUNG <- 1`; `ts`, `uq`, `upc` and `busy` keep their values. -/
def State.hang (s : State) : State := { s with wst := .ready, hung := true }

/-- Whether a bus micro-operation waits: `wst = WAITING(m)`, `m` not `DELAY` (R181). -/
def State.busWaiting (s : State) : Bool :=
  match s.wst with
  | .ready => false
  | .waiting (.delay _) => false
  | .waiting _ => true

/-- Whether a reset abandons a transaction, so that it appends `RST` (R181). -/
def State.busHeld (s : State) : Bool := decide (s.ts ≠ .idle) || s.busWaiting

/-- The reset event (R180, R181): every piece of state gets its value of R38; `FB` becomes unspecified afresh; `RST`
goes to `BUS` if a transaction is open; the traces, `tick`, the parameters and the other agents are not touched. -/
def State.resetBlock (s : State) : State :=
  { State.reset with
    fbEpoch := s.fbEpoch + 1
    bus := if s.busHeld then s.bus ++ [.rst] else s.bus
    rsp := s.rsp
    cpl := s.cpl
    tick := s.tick
    params := s.params
    hostQ := s.hostQ
    envQ := s.envQ
    sched := s.sched
    reads := s.reads }

/-! ### Accepting a command -/

/-- The block is neither hung nor faulted (R29). -/
def State.alive (s : State) : Bool := !s.hung && decide (s.fault = .noFault)

/-- Ready for a first word: `busy = 0`, `HUNG = 0` and `FAULT = 0` (R87). -/
def State.idleReady (s : State) : Bool := s.alive && !s.busy

/-- `cmd_ready` (R87): ready for a first word, or collecting the payload of an `OLED_MSG`. -/
def State.cmdReady (s : State) : Bool := s.alive && (!s.busy || !s.latched.isEmpty)

/-- The accept step of a legal command with the expansion `q` (R87). A command presented while the block is not
ready is not taken (U20): nothing changes. -/
def accept (q : List MicroOp) (s : State) : Host.Outcome State Fault Refusal :=
  if s.idleReady then .next (s.load q) else .next s

/-- The accept step of a legal command whose operand is refused: `Fault(OPERAND)` (R87, R123). -/
def refuseOperand (s : State) : Host.Outcome State Fault Refusal :=
  if s.idleReady then .next (s.raiseFault .operand) else .next s

end Sys2Proof.Machine
end

