-- ==== Sys2Proof/Machine/Operands.lean ====
section
/-! DEFINITION. The address byte (spec/20_memory.md R53) and the micro-operation lists commands expand into
(spec/41_i2c_composites.md, spec/43_oled_pipeline.md). -/

namespace Sys2Proof.Machine

/-- `addrW(a) = (a << 1) | 0` (R53): the address in bits 7:1, the direction in bit 0. -/
def addrW (a : BitVec 7) : Byte := a.setWidth 8 <<< 1

/-- `addrR(a) = (a << 1) | 1` (R53). -/
def addrR (a : BitVec 7) : Byte := a.setWidth 8 <<< 1 ||| 1

/-- A write transaction of three bytes; `I2C_WRREG` and `cmdTxn` are this one list (R121, R140, R141). -/
def writeTxn (dev : BitVec 7) (reg v : Byte) : List MicroOp :=
  [.start, .send (addrW dev), .send reg, .send v, .stop]

/-- The head of every register read (R122, R123): write address, register, restart, read address. -/
def readHead (dev : BitVec 7) (reg : Byte) : List MicroOp :=
  [.start, .send (addrW dev), .send reg, .restart, .send (addrR dev)]

/-- `expand(I2C_RDREG dev reg)` (R122). -/
def readTxn (dev : BitVec 7) (reg : Byte) : List MicroOp := readHead dev reg ++ [.recv, .ack 1, .stop]

/-- `n` receive cycles that are each answered with ACK (R123). -/
def recvAcked : Nat → List MicroOp
  | 0 => []
  | n + 1 => .recv :: .ack 0 :: recvAcked n

/-- `expand(I2C_RDMULT dev reg n)` for `n >= 1` (R123): every byte is ACKed except the last. -/
def readManyTxn (dev : BitVec 7) (reg : Byte) (n : Nat) : List MicroOp :=
  readHead dev reg ++ recvAcked (n - 1) ++ [.recv, .ack 1] ++ [.stop]

/-- `cmdTxn(c)` (R140): one command byte behind the control byte 0x00. -/
def cmdTxn (addr : BitVec 7) (c : Byte) : List MicroOp := writeTxn addr ctrlCmd c

/-- `cmdSeq(L)` (R140): one transaction per byte, in list order. -/
def cmdSeq (addr : BitVec 7) (l : List Byte) : List MicroOp := l.flatMap (cmdTxn addr)

/-- `SENDFB(i)` for `i` in `0 .. 511`, ascending (R144). -/
def sendFbAll : List MicroOp := (List.range fbBytes).map fun i => .sendFb (BitVec.ofNat 9 i)

/-- `dataTxn` (R144): the whole framebuffer behind the control byte 0x40 in one transaction. -/
def dataTxn (addr : BitVec 7) : List MicroOp :=
  [.start, .send (addrW addr), .send ctrlData] ++ sendFbAll ++ [.stop]

/-- `expand(OLED_UPDATE)` (R143). -/
def updateOps (p : Params) : List MicroOp := cmdSeq p.oledAddr7 p.windowSeq ++ dataTxn p.oledAddr7

/-- `expand(OLED_SETUP)` (R145). -/
def setupOps (p : Params) : List MicroOp :=
  [.delay p.settleTicks] ++ cmdSeq p.oledAddr7 p.initSeq ++ [.fbClear] ++ updateOps p

end Sys2Proof.Machine
end

