-- ==== Sys2Proof/Machine/I2cComposites.lean ====
section
/-! DEFINITION. The three composite register transactions (spec/41_i2c_composites.md R120 to R123). -/

namespace Sys2Proof.Machine

/-- `expand(I2C_WRREG dev reg v)` (R121). -/
def execI2cWrreg (dev : BitVec 7) (reg v : Byte) (s : State) : Host.Outcome State Fault Refusal :=
  accept (writeTxn dev reg v) s

/-- `expand(I2C_RDREG dev reg)` (R122). -/
def execI2cRdreg (dev : BitVec 7) (reg : Byte) (s : State) : Host.Outcome State Fault Refusal :=
  accept (readTxn dev reg) s

/-- `expand(I2C_RDMULT dev reg n)` (R123): `Fault(OPERAND)` at accept if `count = 0`. -/
def execI2cRdmult (dev : BitVec 7) (reg count : Byte) (s : State) : Host.Outcome State Fault Refusal :=
  if count = 0 then refuseOperand s else accept (readManyTxn dev reg count.toNat) s

end Sys2Proof.Machine
end

