-- ==== Sys2Proof/Machine/I2cPrimitives.lean ====
section
/-! DEFINITION. The seven I2C primitives (spec/40_i2c_primitives.md R100, R103 to R110): each is accepted with its
one micro-operation in the queue; what that does is its issue and completion in Machine/Sequencer.lean. -/

namespace Sys2Proof.Machine

/-- `I2C_SETUP -> [ENABLE]` (R103). -/
def execI2cSetup (s : State) : Host.Outcome State Fault Refusal := accept [.enable] s

/-- `I2C_START -> [START]` (R104). -/
def execI2cStart (s : State) : Host.Outcome State Fault Refusal := accept [.start] s

/-- `I2C_RESTART -> [RESTART]` (R105). -/
def execI2cRestart (s : State) : Host.Outcome State Fault Refusal := accept [.restart] s

/-- `I2C_SEND b -> [SEND(b)]` (R106, R107). -/
def execI2cSend (b : Byte) (s : State) : Host.Outcome State Fault Refusal := accept [.send b] s

/-- `I2C_RECV -> [RECV]` (R108). -/
def execI2cRecv (s : State) : Host.Outcome State Fault Refusal := accept [.recv] s

/-- `I2C_ACK a -> [ACK(a)]` (R109). -/
def execI2cAck (a : BitVec 1) (s : State) : Host.Outcome State Fault Refusal := accept [.ack a] s

/-- `I2C_STOP -> [STOP]` (R110). -/
def execI2cStop (s : State) : Host.Outcome State Fault Refusal := accept [.stop] s

end Sys2Proof.Machine
end

