-- ==== Sys2Proof/Machine/OledDraw.lean ====
section
/-! DEFINITION. The four drawing commands (spec/42_oled_framebuffer.md R131 to R135): one local micro-operation each. -/

namespace Sys2Proof.Machine

/-- `expand(OLED_PIXEL x y color)` (R131). -/
def execOledPixel (x y color : Byte) (s : State) : Host.Outcome State Fault Refusal :=
  accept [.fbDraw (.pixel x y color)] s

/-- `expand(OLED_CLEAR)` (R132). -/
def execOledClear (s : State) : Host.Outcome State Fault Refusal := accept [.fbClear] s

/-- `expand(OLED_LETTER x y ch)` (R133). -/
def execOledLetter (x y ch : Byte) (s : State) : Host.Outcome State Fault Refusal :=
  accept [.fbDraw (.letter x y ch)] s

/-- `expand(OLED_MSG x y t)` (R134). -/
def execOledMsg (x y : Byte) (text : List Byte) (s : State) : Host.Outcome State Fault Refusal :=
  accept [.fbDraw (.message x y text)] s

end Sys2Proof.Machine
end

