-- ==== Sys2Proof/Machine/OledPipeline.lean ====
section
/-! DEFINITION. The three display commands that use the bus (spec/43_oled_pipeline.md R141, R143, R145). -/

namespace Sys2Proof.Machine

/-- `expand(OLED_CMD c) = cmdTxn(c)` (R141). -/
def execOledCmd (c : Byte) (s : State) : Host.Outcome State Fault Refusal := accept (cmdTxn s.params.oledAddr7 c) s

/-- `expand(OLED_UPDATE)` (R143). -/
def execOledUpdate (s : State) : Host.Outcome State Fault Refusal := accept (updateOps s.params) s

/-- `expand(OLED_SETUP)` (R145). -/
def execOledSetup (s : State) : Host.Outcome State Fault Refusal := accept (setupOps s.params) s

end Sys2Proof.Machine
end

