-- ==== Sys2Proof/Machine/Dispatch.lean ====
section
/-! DEFINITION. What accepting each command does (spec/30_encoding.md R87): one arm per constructor. -/

namespace Sys2Proof.Machine

def exec (i : Instr) (s : State) : Host.Outcome State Fault Refusal :=
  match i with
  | .i2cSetup => Sys2Proof.Machine.execI2cSetup s
  | .i2cStart => Sys2Proof.Machine.execI2cStart s
  | .i2cRestart => Sys2Proof.Machine.execI2cRestart s
  | .i2cSend byte => Sys2Proof.Machine.execI2cSend byte s
  | .i2cRecv => Sys2Proof.Machine.execI2cRecv s
  | .i2cAck a => Sys2Proof.Machine.execI2cAck a s
  | .i2cStop => Sys2Proof.Machine.execI2cStop s
  | .i2cWrreg dev reg v => Sys2Proof.Machine.execI2cWrreg dev reg v s
  | .i2cRdreg dev reg => Sys2Proof.Machine.execI2cRdreg dev reg s
  | .i2cRdmult dev reg count => Sys2Proof.Machine.execI2cRdmult dev reg count s
  | .oledSetup => Sys2Proof.Machine.execOledSetup s
  | .oledCmd byte => Sys2Proof.Machine.execOledCmd byte s
  | .oledPixel x y color => Sys2Proof.Machine.execOledPixel x y color s
  | .oledClear => Sys2Proof.Machine.execOledClear s
  | .oledUpdate => Sys2Proof.Machine.execOledUpdate s
  | .oledLetter x y ch => Sys2Proof.Machine.execOledLetter x y ch s
  | .oledMsg x y text => Sys2Proof.Machine.execOledMsg x y text s

end Sys2Proof.Machine
end

