-- ==== Sys2Proof/Machine/Draw.lean ====
section
/-! DEFINITION. The pure functions on framebuffer contents behind the drawing commands (spec/42_oled_framebuffer.md
R130, R131, R133, R134). Coordinates are naturals and never wrap (R136 (b)). `e` is the epoch of the framebuffer: it
only says which free byte an unwritten cell holds. -/

namespace Sys2Proof.Machine

/-- `idx(x, y) = x + (y div 8) * 128` (R33, R51). -/
def pixelIdx (x y : Nat) : Nat := x + (y / pageH) * fbW

/-- `1 << (Y mod 8)`, one bit of 8 (R130). -/
def pixelMask (y : Nat) : Byte := BitVec.ofNat 8 (1 <<< (y % pageH))

/-- One byte with the masked bit set or cleared (R130). -/
def putBit (v mask : Byte) (c : Bool) : Byte := if c then v ||| mask else v &&& ~~~mask

/-- `setpix(fb, X, Y, c)` (R130): out of range, nothing; in range, one bit of one byte. -/
def setpix (e : Nat) (fb : Mem) (x y : Nat) (c : Bool) : Mem :=
  if fbW ≤ x ∨ fbH ≤ y then fb
  else memPut (pixelIdx x y) (putBit (fbGet e fb (pixelIdx x y)) (pixelMask y) c) fb

/-- One column of a glyph: rows `j .. j+n-1` of `col`, top to bottom (R133). -/
def drawColumn (e : Nat) (col : Byte) (x y : Nat) : (n j : Nat) → Mem → Mem
  | 0, _, fb => fb
  | n + 1, j, fb => drawColumn e col x y n (j + 1) (setpix e fb x (y + j) (col.getLsbD j))

/-- Columns `i .. i+n-1` of the glyph of `ch`, left to right (R133). -/
def drawColumns (e : Nat) (p : Params) (ch : Byte) (x y : Nat) : (n i : Nat) → Mem → Mem
  | 0, _, fb => fb
  | n + 1, i, fb => drawColumns e p ch x y n (i + 1) (drawColumn e (glyph p ch i) (x + i) y glyphH 0 fb)

/-- `letter(fb, X, Y, ch)` (R133): all 40 pixels of the cell that are in range, drawn opaquely. -/
def letter (e : Nat) (p : Params) (fb : Mem) (x y : Nat) (ch : Byte) : Mem := drawColumns e p ch x y glyphW 0 fb

/-- Whether the next character goes to the next line: `cx + 5 >= 128` (R134, 90_conflicts.md C7). -/
def wraps (cx : Nat) : Bool := decide (fbW ≤ cx + pitch)

/-- `message(fb, x, y, t)` (R134): the wrap test before every character, the first included; one advance of 5 per
character (90_conflicts.md C8). -/
def message (e : Nat) (p : Params) : (fb : Mem) → (cx cy : Nat) → List Byte → Mem
  | fb, _, _, [] => fb
  | fb, cx, cy, ch :: t =>
    let x := if wraps cx then 0 else cx
    let y := if wraps cx then cy + lineH else cy
    message e p (letter e p fb x y ch) (x + pitch) y t

/-- The function an `FBDRAW` performs (R131, R133, R134). A pixel is set if `color = 1` and cleared by every other
color (R131). -/
def drawOn (e : Nat) (p : Params) (fb : Mem) : Draw → Mem
  | .pixel x y color => setpix e fb x.toNat y.toNat (decide (color = 1))
  | .letter x y ch => letter e p fb x.toNat y.toNat ch
  | .message x y text => message e p fb x.toNat y.toNat text

end Sys2Proof.Machine
end

