-- ==== Sys2Proof/Machine/Flags.lean ====
section
/-! DEFINITION. The legality table (spec/40_i2c_primitives.md R111), the request and status bits a micro-operation
sets at its issue (spec/10_state.md R23, R24), the next `ts` of an acknowledged byte (R106), and the CSR views (R30). -/

namespace Sys2Proof.Machine

/-- A micro-operation of the bus (R100). -/
def MicroOp.isBus : MicroOp → Bool
  | .start | .restart | .send _ | .sendFb _ | .recv | .ack _ | .stop => true
  | .enable | .fbClear | .fbDraw _ | .delay _ => false

/-- A micro-operation done at its issue step, without a wait (R100, R101). -/
def MicroOp.isLocal : MicroOp → Bool
  | .enable | .fbClear | .fbDraw _ => true
  | .start | .restart | .send _ | .sendFb _ | .recv | .ack _ | .stop | .delay _ => false

/-- The legal cells of R111: whether a micro-operation may be issued in a value of `ts`. The micro-operations that
have no row there may always be issued (R102). -/
def legal : MicroOp → TxState → Bool
  | .enable, t => decide (t = .idle)
  | .start, t => decide (t = .idle)
  | .send _, t => t == .startSent || t == .restartSent || t == .addrSentW || t == .dataSent
  | .sendFb _, t => t == .startSent || t == .restartSent || t == .addrSentW || t == .dataSent
  | .restart, t => t == .addrSentW || t == .dataSent || t == .recvNacked || t == .nacked
  | .recv, t => t == .addrSentR || t == .recvAcked
  | .ack _, t => decide (t = .dataRecv)
  | .stop, t => t == .addrSentW || t == .dataSent || t == .recvNacked || t == .nacked
  | .fbClear, _ => true
  | .fbDraw _, _ => true
  | .delay _, _ => true

/-- `pre(m)` (R102): the fault the issue of `m` raises, if any; `NOT_ENABLED` is tested before `SEQ` (R164). -/
def pre (m : MicroOp) (s : State) : Cause :=
  if m.isBus && !s.on then .notEnabled
  else if legal m s.ts then .noFault
  else .seq

/-- The request state a bus micro-operation sets at its issue (R104 to R110). -/
def request (m : MicroOp) (s : State) : State :=
  match m with
  | .start => { s with sen := true }
  | .restart => { s with rsen := true }
  | .send b => { s with trn := b, trstat := true }
  | .recv => { s with rcen := true }
  | .ack a => { s with ackdt := a, acken := true }
  | .stop => { s with pen := true, ts := .stopSent }
  | .sendFb _ | .enable | .fbClear | .fbDraw _ | .delay _ => s

/-- `ts` after an acknowledged byte (R106): an address byte by its bit 0, a data byte else. -/
def tsAfterSend (b : Byte) (t : TxState) : TxState :=
  match t with
  | .startSent | .restartSent => if b.getLsbD 0 then .addrSentR else .addrSentW
  | .addrSentW | .dataSent => .dataSent
  | .idle | .addrSentR | .dataRecv | .recvAcked | .recvNacked | .stopSent | .nacked => t

/-- `ts` after the master's acknowledge bit (R109). -/
def tsAfterAck (a : BitVec 1) : TxState := if a = 0 then .recvAcked else .recvNacked

/-! ### The CSR map -/

/-- One bit of a view. -/
def bit (b : Bool) : BitVec 1 := BitVec.ofBool b

/-- The sixteen 32-bit views (R30); unlisted bits and the reserved indices read 0. -/
def csrView (s : State) (i : BitVec 4) : Word :=
  match i.toNat with
  | 0 => place 0 (bit s.sen) ||| place 1 (bit s.rsen) ||| place 2 (bit s.pen) ||| place 3 (bit s.rcen)
      ||| place 4 (bit s.acken) ||| place 5 s.ackdt ||| place 15 (bit s.on)
  | 1 => place 1 (bit s.rbf) ||| place 14 (bit s.trstat) ||| place 15 s.ackstat
  | 2 => place 0 s.brg
  | 3 => place 0 s.trn
  | 4 => place 0 s.rcv
  | 5 => place 0 s.ts.code ||| place 4 (bit s.busy) ||| place 5 (bit (decide (s.wst ≠ .ready))) ||| place 6 (bit s.hung)
      ||| place 8 s.st.code
  | 6 => place 0 s.fault.code
  | 7 => place 0 s.upc
  | _ => 0

/-- The framebuffer read port (R34): `FB[i]` while `busy = 0`, else an unspecified byte, free for each read `n`. -/
def fbPort (n : Nat) (s : State) (i : BitVec 9) : Byte :=
  if s.busy then Config.fbPortByte n i.toNat else s.fbByte i.toNat

end Sys2Proof.Machine
end

