-- ==== Sys2Proof/Machine/Sequencer.lean ====
section
/-! DEFINITION. The block's steps inside a command (spec/40_i2c_primitives.md R101): `ISSUE`, `COMPLETE`, `RETIRE`,
and `TIMEOUT` (spec/60_exceptions.md R168). Each answers `none` where it is not enabled. -/

namespace Sys2Proof.Machine

/-- A command is in flight and the block is neither hung nor faulted (R101), and its words are all there (R86). -/
def State.running (s : State) : Bool := s.alive && s.busy && s.latched.isEmpty

/-- The effect of a local micro-operation (R103, R130, R132). -/
def performLocal (m : MicroOp) (s : State) : State :=
  match m with
  | .enable => { s with brg := s.params.brgValue, on := true, ackstat := 0 }
  | .fbClear => { s with fb := fbZero }
  | .fbDraw d => { s with fb := drawOn s.fbEpoch s.params s.fb d }
  | .start | .restart | .send _ | .sendFb _ | .recv | .ack _ | .stop | .delay _ => s

/-- What `m` waits as: a `SENDFB(i)` has become `SEND(FB[i])`, with `FB[i]` read at its issue step (R144). -/
def issued (m : MicroOp) (s : State) : MicroOp :=
  match m with
  | .sendFb i => .send (s.fbByte i.toNat)
  | .start | .restart | .send _ | .recv | .ack _ | .stop | .enable | .fbClear | .fbDraw _ | .delay _ => m

/-- `ISSUE` of the head micro-operation `m` (R101): the precondition first, before any state changes (R102). -/
def issueOp (m : MicroOp) (s : State) : State :=
  match pre m s with
  | .noFault =>
    if m.isLocal then (performLocal m s).finish
    else (request (issued m s) s).arm (issued m s)
  | c => s.raiseFault c

/-- `RETIRE` (R101, R112). -/
def retire (s : State) : State := { s.pushCpl s.st with busy := false }

/-- The block's own `ISSUE` or `RETIRE` step (R101). -/
def blockStep (s : State) : Option State :=
  if s.running then
    match s.wst, s.uq with
    | .ready, m :: _ => some (issueOp m s)
    | .ready, [] => some (retire s)
    | .waiting _, _ => none
  else none

/-- The NACK outcome of `SEND` (R107), after `TRSTAT`, `ACKSTAT` and the event: the hang, or in `REPORT` mode the
status `NACK` and a closing `STOP` unless the command was the primitive (R124). -/
def nackOutcome (s : State) : State :=
  match s.params.errMode with
  | .legacyHang => s.hang
  | .report =>
    { s.finish with ts := .nacked, st := .nack, uq := if s.uq.tail.isEmpty then [] else [.stop] }

/-- The completion of `SEND(b)` with the acknowledge bit `a` (R106, R107). -/
def completeSend (b : Byte) (a : BitVec 1) (s : State) : State :=
  let s1 := { s with trstat := false, ackstat := a }.emit (.tx b a)
  if a = 0 then { s1 with ts := tsAfterSend b s.ts }.finish else nackOutcome s1

/-- The completion of the waiting micro-operation `m` by the environment (R65, R104 to R110); `none` if `e` is not
the completion `m` waits for. -/
def complete (m : MicroOp) (e : EnvAct) (s : State) : Option State :=
  match m with
  | .start => if e = .startDone then some ({ s with sen := false, ts := .startSent }.emit .s).finish else none
  | .restart => if e = .restartDone then some ({ s with rsen := false, ts := .restartSent }.emit .sr).finish else none
  | .stop => if e = .stopDone then some ({ s with pen := false, ts := .idle }.emit .p).finish else none
  | .ack a => if e = .ackDone then some ({ s with acken := false, ts := tsAfterAck a }.emit (.ma a)).finish else none
  | .send b =>
    match e with
    | .txDone a => some (completeSend b a s)
    | .startDone | .restartDone | .stopDone | .rxDone _ | .ackDone => none
  | .recv =>
    match e with
    | .rxDone d =>
      some (({ s with rcen := false, rcv := d, rbf := false, ts := .dataRecv }.pushRsp d).emit (.rx d)).finish
    | .startDone | .restartDone | .stopDone | .txDone _ | .ackDone => none
  | .sendFb _ | .enable | .fbClear | .fbDraw _ | .delay _ => none

/-- `COMPLETE` (R101). `DELAY(n)` ends when `n` ticks have passed (R145). A bus wait takes the environment's next
completion; one that is not the one waited for is not enabled (R65) and is dropped from the script (log entry 1). -/
def completeStep (s : State) : Option State :=
  if s.running then
    match s.wst with
    | .ready => none
    | .waiting (.delay n) => if n ≤ s.elapsed then some s.finish else none
    | .waiting m =>
      match s.envQ with
      | [] => none
      | e :: _ => some ((complete m e s.answered).getD s.answered)
  else none

/-- `TIMEOUT` (R168): in `REPORT` mode, a bus wait that has lasted `POLL_TIMEOUT` ticks; not `DELAY` (R145). -/
def timeoutStep (s : State) : Option State :=
  if s.running && s.busWaiting && decide (s.params.errMode = .report) && decide (s.params.pollTimeout ≤ s.elapsed) then
    some (({ s with st := .timeout }.pushCpl .timeout).raiseFault .timeout)
  else none

end Sys2Proof.Machine
end

