-- ==== Sys2Proof/Machine/Port.lean ====
section
/-! DEFINITION. The command port (spec/30_encoding.md R86, R87) and the turns of the five agents (spec/00_scope.md
R11): which agent moves in a step and what its move does (log entries 1, 5, 6, 7, 9, 11, 12). -/

namespace Sys2Proof.Machine

/-- The block takes the word `w`. With the words latched before it, it makes a command, which is accepted (R87); or
an `OLED_MSG` that still lacks payload, so that the block holds `busy = 1` and goes on collecting (R86); or an
illegal command, which raises `ILLEGAL_CMD` and is not kept (R84, R85, R161). DESIGN CHOICE, unsafe (log entry 12):
while an `OLED_MSG` is being collected `upc` and `st` keep what the previous command left, since R87 writes them in
the accept step of the whole command only; when the payload is judged is log entry 7, what is kept of a refused
command log entry 11. -/
def takeWord (w : Word) (s : State) : Host.Outcome State Fault Refusal :=
  match decode (s.latched ++ [w]) with
  | .instr i _ => exec i s.unlatched
  | .more => .next { s with latched := s.latched ++ [w], busy := true }
  | .illegal => .next (s.unlatched.raiseFault .illegalCmd)

/-- The host presents its next word; it is taken if `cmd_ready`, and held by the host otherwise (R87, U20). -/
def hostStep (s : State) : Host.Outcome State Fault Refusal :=
  match s.hostQ with
  | [] => .next s
  | w :: _ => if s.cmdReady then takeWord w s.presented else .next s

/-- A move that may not be enabled: then nothing changes (R166: "an endless stutter"). -/
def orStay (m : Option State) (s : State) : Host.Outcome State Fault Refusal := .next (m.getD s)

/-- One read-port access (R31, R34): the answer is recorded, nothing else changes. -/
def State.answer (s : State) (r : PortRead) : State := { s with reads := s.reads ++ [r] }

/-- The move of the agent whose turn it is. -/
def turnStep (t : Turn) (s : State) : Host.Outcome State Fault Refusal :=
  match t with
  | .block => orStay ((blockStep s).or (timeoutStep s)) s
  | .env => orStay (completeStep s) s
  | .host => hostStep s
  | .tick n => .next { s with tick := s.tick + n }
  | .reset => .next s.resetBlock
  | .readCsr i => .next (s.answer (.csr i (csrView s i)))
  | .readFb i => .next (s.answer (.fb i (fbPort s.reads.length s i)))

/-- The default order: the block's own step, which is "always taken when enabled" (R101); else a completion, which
"may always be taken" (R164); else the timeout; else the host's next word. -/
def defaultStep (s : State) : Host.Outcome State Fault Refusal :=
  match ((blockStep s).or (completeStep s)).or (timeoutStep s) with
  | some t => .next t
  | none => hostStep s

/-- One step of the machine: the scheduled turn if there is one, else the default order. -/
def advance (s : State) : Host.Outcome State Fault Refusal :=
  match s.sched with
  | [] => defaultStep s
  | t :: _ => turnStep t s.turned

/-- `s` with the words of one command placed so that the next step takes the last of them: the words before it are
latched, it is the host's next word, and the block is ready for it (log entry 6). -/
def presentWords (ws : List Word) (s : State) : State :=
  { s with
    latched := ws.dropLast
    busy := !ws.dropLast.isEmpty
    hostQ := ws.getLast?.toList ++ s.hostQ
    hung := false
    fault := .noFault
    wst := .ready
    uq := []
    sched := [] }

end Sys2Proof.Machine
end

