-- ==== Sys2Proof/Machine/Step.lean ====
section
/-! DEFINITION. The machine's step, and the state in which the next step runs a given instruction. -/

namespace Sys2Proof.Machine

/-- One step (Machine/Port.lean, `advance`). -/
def step (s : State) : Host.Outcome State Fault Refusal := advance s

/-- `s` with the instruction whose low `nbits` bits are `w` placed where the next step takes it: on the command
port (log entry 6). -/
def State.withFetchWord (s : State) (nbits w : Nat) : State := presentWords (tableWords nbits w) s

end Sys2Proof.Machine
end

