-- ==== Sys2Proof/Safety.lean ====
section
/-! DEFINITION. The terms claims are stated in: runs, the situations of a step, the coherence of a state, and the
bus trace as a path of the transaction state machine. -/

namespace Sys2Proof.Machine

/-- `k` steps from `s`, none of which stops, end in `u`. -/
def Runs (k : Nat) (s u : State) : Prop := Host.Core.run Sys2Proof.core k s = .next u

/-! ### Situations -/

/-- Ready for a command (R87): not busy, not hung, not faulted, nothing waiting or half collected. -/
abbrev State.Quiet (s : State) : Prop := s.idleReady = true ∧ s.latched = [] ∧ s.wst = .ready

/-- The block is about to issue `m`, and the agents move in the default order. -/
abbrev State.AtHead (s : State) (m : MicroOp) (rest : List MicroOp) : Prop :=
  s.running = true ∧ s.wst = .ready ∧ s.uq = m :: rest ∧ s.sched = []

/-- The block waits for the completion of `m`, and the agents move in the default order. -/
abbrev State.Waits (s : State) (m : MicroOp) : Prop := s.running = true ∧ s.wst = .waiting m ∧ s.sched = []

/-- The timeout is not enabled (R168): another mode, or fewer than `POLL_TIMEOUT` ticks. -/
abbrev State.NotTimedOut (s : State) : Prop := s.params.errMode = .legacyHang ∨ s.elapsed < s.params.pollTimeout

/-- The state a command leaves when it retires after `n` micro-operations with status `c`: `CPL` has one more entry,
nothing is in flight (R101, R112). -/
def State.retired (s : State) (n : Nat) (c : Status) : State :=
  { s with busy := false, uq := [], wst := .ready, upc := BitVec.ofNat 16 n, st := c, cpl := s.cpl ++ [c] }

/-- What the issue of `m` does where R102 refuses it: `NOT_ENABLED` with the engine off; `SEQ` in every `ts` outside
`ok`; nothing else changes (R102, R162). -/
def FaultsOutside (m : MicroOp) (ok : List TxState) : Prop :=
  ∀ (s : State) (rest : List MicroOp), s.AtHead m rest →
    (s.on = false → step s = .next { s with fault := .notEnabled })
    ∧ (s.on = true → s.ts ∉ ok → step s = .next { s with fault := .seq })

/-- The stuck wait (R166): with no completion and no timeout the block stays in the wait for ever. -/
def StuckAlone (m : MicroOp) : Prop :=
  ∀ s : State, s.Waits m → s.envQ = [] → s.NotTimedOut → step s = .next s

/-- `expand(cmd)` (R100): the micro-operations of a command. -/
def expand (p : Params) : Instr → List MicroOp
  | .i2cSetup => [.enable]
  | .i2cStart => [.start]
  | .i2cRestart => [.restart]
  | .i2cSend b => [.send b]
  | .i2cRecv => [.recv]
  | .i2cAck a => [.ack a]
  | .i2cStop => [.stop]
  | .i2cWrreg dev reg v => writeTxn dev reg v
  | .i2cRdreg dev reg => readTxn dev reg
  | .i2cRdmult dev reg count => readManyTxn dev reg count.toNat
  | .oledSetup => setupOps p
  | .oledCmd c => cmdTxn p.oledAddr7 c
  | .oledPixel x y color => [.fbDraw (.pixel x y color)]
  | .oledClear => [.fbClear]
  | .oledUpdate => updateOps p
  | .oledLetter x y ch => [.fbDraw (.letter x y ch)]
  | .oledMsg x y text => [.fbDraw (.message x y text)]

/-- Pixel (x, y) of the framebuffer: `(FB[idx(x,y)] >> bit(x,y)) & 1` (R33). -/
def pixel (e : Nat) (fb : Mem) (x y : Nat) : Bool := (fbGet e fb (pixelIdx x y)).getLsbD (y % pageH)

/-- Whether pixel (px, py) lies in the 5 x 8 cell of a character drawn at (x, y) (R133). -/
def inCell (x y px py : Nat) : Bool := decide (x ≤ px ∧ px < x + glyphW ∧ y ≤ py ∧ py < y + glyphH)

/-- Where the characters of a message that starts at (x, y) are drawn, with their codes: the wrap test before every
character, an advance of 5 after it (R134). -/
def msgCells : (x y : Nat) → List Byte → List (Nat × Nat × Byte)
  | _, _, [] => []
  | x, y, ch :: t =>
    if 128 ≤ x + 5 then (0, y + 8, ch) :: msgCells 5 (y + 8) t else (x, y, ch) :: msgCells (x + 5) y t

/-- The edges of the transaction state machine (R27, R111), the ones `STOP` takes through `STOP_SENT` included. -/
def tsEdge : TxState → TxState → Bool
  | .idle, .startSent => true
  | .startSent, .addrSentW | .startSent, .addrSentR | .startSent, .nacked => true
  | .restartSent, .addrSentW | .restartSent, .addrSentR | .restartSent, .nacked => true
  | .addrSentW, .dataSent | .addrSentW, .restartSent | .addrSentW, .stopSent | .addrSentW, .nacked => true
  | .dataSent, .restartSent | .dataSent, .stopSent | .dataSent, .nacked => true
  | .addrSentR, .dataRecv => true
  | .dataRecv, .recvAcked | .dataRecv, .recvNacked => true
  | .recvAcked, .dataRecv => true
  | .recvNacked, .restartSent | .recvNacked, .stopSent => true
  | .nacked, .restartSent | .nacked, .stopSent => true
  | .stopSent, .idle => true
  | _, _ => false

/-! ### Bus traces of whole commands, every byte acknowledged -/

/-- The trace of `writeTxn` (R121, R140). -/
def writeTrace (dev : BitVec 7) (reg v : Byte) : List BusEvent :=
  [.s, .tx (addrW dev) 0, .tx reg 0, .tx v 0, .p]

/-- The environment's answers to `writeTxn`. -/
def writeAnswers : List EnvAct := [.startDone, .txDone 0, .txDone 0, .txDone 0, .stopDone]

/-- The trace of a register read up to the first received byte (R122, R123). -/
def readHeadTrace (dev : BitVec 7) (reg : Byte) : List BusEvent :=
  [.s, .tx (addrW dev) 0, .tx reg 0, .sr, .tx (addrR dev) 0]

/-- The environment's answers to `readHead`. -/
def readHeadAnswers : List EnvAct := [.startDone, .txDone 0, .txDone 0, .restartDone, .txDone 0]

/-- The received bytes with the master's acknowledge bits: ACK for every byte except the last (R123). -/
def burstTrace : List Byte → List BusEvent
  | [] => []
  | [d] => [.rx d, .ma 1]
  | d :: d' :: ds => .rx d :: .ma 0 :: burstTrace (d' :: ds)

/-- The environment's answers to the receive cycles, supplying the bytes `ds`. -/
def burstAnswers (ds : List Byte) : List EnvAct := ds.flatMap fun d => [.rxDone d, .ackDone]

/-- The trace of `cmdSeq` (R140). -/
def cmdSeqTrace (addr : BitVec 7) (l : List Byte) : List BusEvent := l.flatMap (writeTrace addr ctrlCmd)

/-- The trace of `dataTxn` when byte `i` of the framebuffer is `f i` (R144). -/
def dataTrace (addr : BitVec 7) (f : Nat → Byte) : List BusEvent :=
  [.s, .tx (addrW addr) 0, .tx ctrlData 0] ++ (List.range fbBytes).map (fun i => .tx (f i) 0) ++ [.p]

/-- The environment's answers to `cmdSeq` of `n` bytes. -/
def cmdSeqAnswers (n : Nat) : List EnvAct := (List.replicate n writeAnswers).flatten

/-- The environment's answers to `dataTxn`. -/
def dataAnswers : List EnvAct := [.startDone] ++ List.replicate 514 (.txDone 0) ++ [.stopDone]

/-! ### The bus trace as a path -/

/-- The transaction state after one more bus event, if the table of R111 has the edge. A byte that is not
acknowledged leaves the bus held (`NACKED`); `RST` abandons whatever was open (R181). -/
def busNext (t : TxState) : BusEvent → Option TxState
  | .s => if legal .start t then some .startSent else none
  | .sr => if legal .restart t then some .restartSent else none
  | .p => if legal .stop t then some .idle else none
  | .tx b a => if legal (.send b) t then some (if a = 0 then tsAfterSend b t else .nacked) else none
  | .rx _ => if legal .recv t then some .dataRecv else none
  | .ma a => if legal (.ack a) t then some (tsAfterAck a) else none
  | .rst => some .idle

/-- The transaction state a bus trace leads to from `IDLE`; `none` if it is no path of the state machine. -/
def busReplay : List BusEvent → Option TxState :=
  fun l => l.foldl (fun o e => o.bind fun t => busNext t e) (some .idle)

/-- Whether a START is unmatched: `S` opens, `P` and `RST` close (R27, R181). -/
def busOpen : List BusEvent → Bool :=
  fun l => l.foldl (fun o e => match e with
    | .s => true
    | .p => false
    | .rst => false
    | .sr | .tx _ _ | .rx _ | .ma _ => o) false

/-! ### Coherence of a state -/

/-- The wait is for a `SEND`. -/
def Wait.isSend : Wait → Bool
  | .waiting (.send _) => true
  | .ready | .waiting .start | .waiting .restart | .waiting (.sendFb _) | .waiting .recv | .waiting (.ack _)
  | .waiting .stop | .waiting .enable | .waiting .fbClear | .waiting (.fbDraw _) | .waiting (.delay _) => false

/-- The wait is for an `ACK`. -/
def Wait.isAck : Wait → Bool
  | .waiting (.ack _) => true
  | .ready | .waiting .start | .waiting .restart | .waiting (.sendFb _) | .waiting .recv | .waiting (.send _)
  | .waiting .stop | .waiting .enable | .waiting .fbClear | .waiting (.fbDraw _) | .waiting (.delay _) => false

/-- A micro-operation that waits: the bus ones after their issue, and `DELAY`. -/
def MicroOp.waits : MicroOp → Bool
  | .start | .restart | .send _ | .recv | .ack _ | .stop | .delay _ => true
  | .sendFb _ | .enable | .fbClear | .fbDraw _ => false

/-- What the spec says of every state a run reaches: each request bit is 1 exactly while its condition is waited for
(R23, R24), `STOP_SENT` exists only while `STOP` waits (R26, R111), nothing is in flight when the block is not busy
(R22), the engine has used the bus only if it is enabled (R102, R164), a halted block stays busy (R29), `NACKED`,
`st = TIMEOUT` and the hang belong to their modes (R26, R107, R112, R168). -/
structure State.Coherent (s : State) : Prop where
  sen : s.sen = decide (s.wst = .waiting .start)
  rsen : s.rsen = decide (s.wst = .waiting .restart)
  pen : s.pen = decide (s.wst = .waiting .stop)
  rcen : s.rcen = decide (s.wst = .waiting .recv)
  acken : s.acken = s.wst.isAck
  trstat : s.trstat = s.wst.isSend
  rbf : s.rbf = false
  stopSent : s.ts = .stopSent ↔ s.wst = .waiting .stop
  notBusy : s.busy = false → s.wst = .ready ∧ s.uq = [] ∧ s.latched = [] ∧ s.alive = true
  waiting : ∀ m, s.wst = .waiting m → m.waits = true ∧ s.uq ≠ [] ∧ s.hung = false
    ∧ (s.fault = .noFault ∨ s.fault = .timeout) ∧ (m ≠ .stop → legal m s.ts = true)
  collecting : s.latched ≠ [] → decode s.latched = .more ∧ s.wst = .ready ∧ s.uq = [] ∧ s.alive = true
  notOn : s.on = false → s.ts = .idle ∧ s.busWaiting = false
  hungWhy : s.hung = true → s.params.errMode = .legacyHang ∧ s.wst = .ready ∧ s.fault = .noFault
    ∧ legal (.send 0) s.ts = true ∧ s.ackstat = 1
  nackedWhy : s.ts = .nacked → s.params.errMode = .report
  nackWhy : s.st = .nack → s.params.errMode = .report
  timeoutWhy : s.st = .timeout ↔ s.fault = .timeout
  timeoutMode : s.fault = .timeout → s.params.errMode = .report
  memory : memWf s.fb = true
  params : s.params.wf = true

/-- `BUS` is a path of the transaction state machine from `IDLE`, and it ends in `ts`; while `STOP` waits it ends in
a state from which `STOP` is legal, and after a hang in the unacknowledged byte (R27, R64, R165). -/
def State.BusTraced (s : State) : Prop :=
  if s.hung then busReplay s.bus = some .nacked
  else if s.ts = .stopSent then ∃ t, busReplay s.bus = some t ∧ legal .stop t = true
  else busReplay s.bus = some s.ts

/-- The invariant of the machine. -/
def State.Inv (s : State) : Prop := s.Coherent ∧ s.BusTraced

/-- The table of R38, but for `FB`, the tables, the traces and `tick`, which it leaves open or alone; and no latched word
of an `OLED_MSG` (R180: "no command in flight"). -/
def State.HasResetValues (s : State) : Prop :=
  s.on = false ∧ s.brg = 0
  ∧ s.sen = false ∧ s.rsen = false ∧ s.pen = false ∧ s.rcen = false ∧ s.acken = false ∧ s.ackdt = 0
  ∧ s.trstat = false ∧ s.ackstat = 0 ∧ s.rbf = false ∧ s.trn = 0 ∧ s.rcv = 0
  ∧ s.ts = .idle ∧ s.busy = false ∧ s.uq = [] ∧ s.upc = 0 ∧ s.wst = .ready ∧ s.t0 = 0 ∧ s.st = .ok
  ∧ s.hung = false ∧ s.fault = .noFault ∧ s.latched = []

/-- A state that is neither hung nor faulted: "A fault state is not a final state" (R162), nor is a hang (R165). -/
abbrev State.Safe (s : State) : Prop := s.alive = true

end Sys2Proof.Machine
end

