-- ==== Sys2Proof/Certificates/Slice0/Obligations.lean ====
section
/-! DEFINITION. The statements for the provers, in the order of the spec's files. -/

open Sys2Proof Sys2Proof.Machine

/-! ## Encoding (spec/30_encoding.md) -/

/-- R81, R83, R86: no bit of an encoding is dropped. Decoding the words of any well-formed command, with any words
after them, gives that command and those words. -/
def Obligations.DecodeOfEncode : Prop :=
  ∀ (i : Instr) (rest : List Word), i.wf = true → decode (encode i ++ rest) = .instr i rest

/-- R84, R85: every word sequence the decoder reads as a command is that command's encoding, so no reserved bit is
ignored and no opcode falls through to a neighbour. -/
def Obligations.DecodedIsEncoded : Prop :=
  ∀ (ws rest : List Word) (i : Instr), decode ws = .instr i rest → i.wf = true ∧ ws = encode i ++ rest

/-- 95_test_vectors.md VX1 to VX19, all of them: the spec's own words decode to the commands it says. -/
def Obligations.TableWordsDecode : Prop :=
  decode [0x10000000] = .instr .i2cSetup [] ∧ decode [0x11000000] = .instr .i2cStart []
  ∧ decode [0x12000000] = .instr .i2cRestart [] ∧ decode [0x13000078] = .instr (.i2cSend 0x78) []
  ∧ decode [0x14000000] = .instr .i2cRecv [] ∧ decode [0x15000000] = .instr (.i2cAck 0) []
  ∧ decode [0x15000001] = .instr (.i2cAck 1) [] ∧ decode [0x16000000] = .instr .i2cStop []
  ∧ decode [0x18200A80] = .instr (.i2cWrreg 0x20 0x0A 0x80) []
  ∧ decode [0x187FFFFF] = .instr (.i2cWrreg 0x7F 0xFF 0xFF) [] ∧ decode [0x196B0F00] = .instr (.i2cRdreg 0x6B 0x0F) []
  ∧ decode [0x1A6B2203] = .instr (.i2cRdmult 0x6B 0x22 3) [] ∧ decode [0x20000000] = .instr .oledSetup []
  ∧ decode [0x210000AF] = .instr (.oledCmd 0xAF) [] ∧ decode [0x22030A01] = .instr (.oledPixel 3 10 1) []
  ∧ decode [0x23000000] = .instr .oledClear [] ∧ decode [0x24000000] = .instr .oledUpdate []
  ∧ decode [0x25000041] = .instr (.oledLetter 0 0 0x41) []
  ∧ decode [0x26760002, 0x41, 0x42] = .instr (.oledMsg 118 0 [0x41, 0x42]) []
  ∧ decode [0x26000000] = .instr (.oledMsg 0 0 []) []

/-- R84: a word with a reserved bit of its format set, or a payload word with one of bits 31:8 set, is illegal; the
block raises `Fault(ILLEGAL_CMD)` at accept and does nothing else. Two points are the model's: an illegal payload word
is judged when the whole payload is there (log entry 7), and the refused word has left the host and no latched word is
kept (log entry 11). -/
def Obligations.ReservedBitsAreIllegal : Prop :=
  (∀ (w : Word) (ws : List Word),
    opField w ∈ ([0x10, 0x11, 0x12, 0x14, 0x16, 0x20, 0x23, 0x24] : List Byte) → w.extractLsb' 0 24 ≠ 0 →
      decode (w :: ws) = .illegal)
  ∧ (∀ (w : Word) (ws : List Word), opField w ∈ ([0x13, 0x21] : List Byte) → w.extractLsb' 8 16 ≠ 0 →
      decode (w :: ws) = .illegal)
  ∧ (∀ (w : Word) (ws : List Word), opField w = 0x15 → w.extractLsb' 1 23 ≠ 0 → decode (w :: ws) = .illegal)
  ∧ (∀ (w : Word) (ws : List Word), opField w ∈ ([0x18, 0x1A] : List Byte) → w.getLsbD 23 = true →
      decode (w :: ws) = .illegal)
  ∧ (∀ (w : Word) (ws : List Word), opField w = 0x19 → (w.getLsbD 23 = true ∨ w.extractLsb' 0 8 ≠ 0) →
      decode (w :: ws) = .illegal)
  ∧ (∀ (w : Word) (ws : List Word), opField w = 0x26 → (w.extractLsb' 0 8).toNat ≤ ws.length →
      (∃ p ∈ ws.take (w.extractLsb' 0 8).toNat, p.extractLsb' 8 24 ≠ 0) → decode (w :: ws) = .illegal)
  ∧ ∀ (s : State) (w : Word) (ws : List Word), s.cmdReady = true → s.sched = [] → s.hostQ = w :: ws →
      decode (s.latched ++ [w]) = .illegal →
      step s = .next { s with hostQ := ws, latched := [], fault := .illegalCmd, busy := true }

/-- R85: an opcode outside the seventeen is illegal and raises `Fault(ILLEGAL_CMD)` at accept. That the refused word
has left the host is the model's (log entry 11). -/
def Obligations.UnknownOpcodesAreIllegal : Prop :=
  ∀ (w : Word), opField w ∉ ([0x10, 0x11, 0x12, 0x13, 0x14, 0x15, 0x16, 0x18, 0x19, 0x1A, 0x20, 0x21, 0x22, 0x23,
      0x24, 0x25, 0x26] : List Byte) →
    (∀ ws, decode (w :: ws) = .illegal)
    ∧ ∀ (s : State) (ws : List Word), s.idleReady = true → s.latched = [] → s.sched = [] → s.hostQ = w :: ws →
        step s = .next { s with hostQ := ws, fault := .illegalCmd, busy := true }

/-- R86: `len` payload words follow the header; with fewer the block holds `busy = 1` and waits for the host, without
a fault; with all of them it executes; `len = 0` takes no payload word. Two points are the model's: the words are
latched one by one (log entry 7), and `upc` and `st` keep what the previous command left until the last word is there
(log entry 12). -/
def Obligations.MessagePayloadIsCollected : Prop :=
  (∀ (x y len : Byte) (cs : List Byte) (rest : List Word), cs.length = len.toNat →
    decode (fmtXYV 0x26 x y len :: (cs.map (fmtB 0) ++ rest)) = .instr (.oledMsg x y cs) rest)
  ∧ (∀ (x y len : Byte) (ws : List Word), ws.length < len.toNat → decode (fmtXYV 0x26 x y len :: ws) = .more)
  ∧ (∀ (s : State) (w : Word) (ws : List Word), s.cmdReady = true → s.sched = [] → s.hostQ = w :: ws →
      decode (s.latched ++ [w]) = .more →
      step s = .next { s with hostQ := ws, latched := s.latched ++ [w], busy := true })
  ∧ (∀ (s : State), s.latched ≠ [] → s.sched = [] → s.hostQ = [] → step s = .next s)

/-! ## Accepting a command (R87, R100) -/

/-- When the host's next word completes a command, the step is `exec` of that command on the state with the word
taken and the latch given up (the model's form of R87; log entry 6). -/
def Obligations.StepRunsTheDecodedCommand : Prop :=
  ∀ (s : State) (w : Word) (ws rest : List Word) (i : Instr), s.cmdReady = true → s.sched = [] → s.hostQ = w :: ws →
    decode (s.latched ++ [w]) = .instr i rest →
    step s = exec i { s with hostQ := ws, latched := [], busy := false }

/-- R87, R100: a legal command presented to a ready block is accepted: `busy <- 1; upc <- 0; st <- OK;
uq <- expand`. Every command but `I2C_RDMULT` with a count of 0. -/
def Obligations.AcceptLoadsTheExpansion : Prop :=
  ∀ (i : Instr) (s : State), s.idleReady = true → (∀ dev reg, i ≠ .i2cRdmult dev reg 0) →
    exec i s = .next { s with busy := true, upc := 0, st := .ok, uq := expand s.params i }

/-- R87: `cmd_ready` is 1 exactly when the block is free and neither hung nor faulted, or collects a payload; and a
word presented while it is 0 is not taken. -/
def Obligations.WordTakenOnlyWhenReady : Prop :=
  (∀ s : State, s.cmdReady = true ↔
    (s.hung = false ∧ s.fault = .noFault ∧ (s.busy = false ∨ s.latched ≠ [])))
  ∧ (∀ (s : State) (ts : List Turn), s.cmdReady = false → s.sched = .host :: ts →
      step s = .next { s with sched := ts })
  ∧ (∀ s t : State, step s = .next t → t.hostQ ≠ s.hostQ → s.cmdReady = true ∧ t.hostQ = s.hostQ.tail)

/-- U20, R87: a command presented to a block that is not ready leaves everything as it was. -/
def Obligations.BusyBlockTakesNoCommand : Prop :=
  ∀ (i : Instr) (s : State), s.idleReady = false → exec i s = .next s

/-- The frame of accepting any command: nothing but `busy`, `upc`, `st`, `uq` and `FAULT` can change; every byte of
the framebuffer, every trace, every engine register and `ts` stay. -/
def Obligations.AcceptFrame : Prop :=
  ∀ (i : Instr) (s t : State), exec i s = .next t →
    t = { s with busy := t.busy, upc := t.upc, st := t.st, uq := t.uq, fault := t.fault }
    ∧ ∀ a, t.fbByte a = s.fbByte a

/-- R123, R164: `I2C_RDMULT` with `count = 0` raises `Fault(OPERAND)` at accept with no other effect; the same word
with bit 23 set too reports `ILLEGAL_CMD`. -/
def Obligations.ZeroCountIsRefused : Prop :=
  (∀ (s : State) (dev : BitVec 7) (reg : Byte), s.idleReady = true →
    exec (.i2cRdmult dev reg 0) s = .next { s with fault := .operand, busy := true })
  ∧ decode [0x1A6B2200] = .instr (.i2cRdmult 0x6B 0x22 0) [] ∧ decode [0x1A800000] = .illegal

/-! ## The primitives (spec/40_i2c_primitives.md) -/

/-- R102: the preconditions, checked before any state changes; `NOT_ENABLED` before `SEQ`; the legal set of each
micro-operation is its row of R111. `ENABLE` faults `SEQ` outside `IDLE`; `FBCLEAR`, `FBDRAW` and `DELAY` never
fault. -/
def Obligations.PreconditionsAreChecked : Prop :=
  FaultsOutside .start [.idle]
  ∧ (∀ b, FaultsOutside (.send b) [.startSent, .addrSentW, .dataSent, .restartSent])
  ∧ (∀ i, FaultsOutside (.sendFb i) [.startSent, .addrSentW, .dataSent, .restartSent])
  ∧ FaultsOutside .restart [.addrSentW, .dataSent, .recvNacked, .nacked]
  ∧ FaultsOutside .recv [.addrSentR, .recvAcked]
  ∧ (∀ a, FaultsOutside (.ack a) [.dataRecv])
  ∧ FaultsOutside .stop [.addrSentW, .dataSent, .recvNacked, .nacked]
  ∧ (∀ (s : State) (rest : List MicroOp), s.AtHead .enable rest → s.ts ≠ .idle →
      step s = .next { s with fault := .seq })
  ∧ (∀ (s t : State) (m : MicroOp) (rest : List MicroOp),
      m = .fbClear ∨ (∃ d, m = .fbDraw d) ∨ (∃ n, m = .delay n) → s.AtHead m rest → step s = .next t →
      t.fault = .noFault)

/-- R103: `I2C_SETUP`. Its one step writes `BRG`, `ON`, `ACKSTAT` when `ts = IDLE` and faults `SEQ` otherwise; it
retires `OK` with no bus event. -/
def Obligations.SetupFollowsItsRule : Prop :=
  encode .i2cSetup = [0x10000000]
  ∧ (∀ s : State, s.Quiet → s.sched = [] → s.ts = .idle →
      exec .i2cSetup s = .next (s.load [.enable])
      ∧ Runs 2 (s.load [.enable])
          (({ s with brg := s.params.brgValue, on := true, ackstat := 0 } : State).retired 1 .ok))
  ∧ (∀ (s : State) (rest : List MicroOp), s.AtHead .enable rest → s.ts = .idle →
      step s = .next { s with brg := s.params.brgValue, on := true, ackstat := 0, uq := rest, upc := s.upc + 1 })
  ∧ (∀ (s : State) (rest : List MicroOp), s.AtHead .enable rest → s.ts ≠ .idle →
      step s = .next { s with fault := .seq })

/-- R104: `I2C_START`. -/
def Obligations.StartFollowsItsRule : Prop :=
  encode .i2cStart = [0x11000000]
  ∧ (∀ (s : State) (es : List EnvAct), s.Quiet → s.sched = [] → s.on = true → s.ts = .idle →
      s.envQ = .startDone :: es →
      exec .i2cStart s = .next (s.load [.start])
      ∧ Runs 3 (s.load [.start])
          (({ s with sen := false, bus := s.bus ++ [.s], ts := .startSent, t0 := s.tick, envQ := es } : State).retired 1 .ok))
  ∧ (∀ (s : State) (rest : List MicroOp), s.AtHead .start rest → s.on = true → s.ts = .idle →
      step s = .next { s with sen := true, t0 := s.tick, wst := .waiting .start })
  ∧ (∀ (s : State) (es : List EnvAct), s.Waits .start → s.envQ = .startDone :: es →
      step s = .next { s with
        sen := false, bus := s.bus ++ [.s], ts := .startSent, wst := .ready, uq := s.uq.tail, upc := s.upc + 1
        envQ := es })
  ∧ StuckAlone .start ∧ FaultsOutside .start [.idle]

/-- R105: `I2C_RESTART`. -/
def Obligations.RestartFollowsItsRule : Prop :=
  encode .i2cRestart = [0x12000000]
  ∧ (∀ (s : State) (es : List EnvAct), s.Quiet → s.sched = [] → s.on = true →
      s.ts ∈ [TxState.addrSentW, .dataSent, .recvNacked, .nacked] → s.envQ = .restartDone :: es →
      exec .i2cRestart s = .next (s.load [.restart])
      ∧ Runs 3 (s.load [.restart])
          (({ s with rsen := false, bus := s.bus ++ [.sr], ts := .restartSent, t0 := s.tick, envQ := es } : State).retired 1 .ok))
  ∧ (∀ (s : State) (rest : List MicroOp), s.AtHead .restart rest → s.on = true →
      s.ts ∈ [TxState.addrSentW, .dataSent, .recvNacked, .nacked] →
      step s = .next { s with rsen := true, t0 := s.tick, wst := .waiting .restart })
  ∧ (∀ (s : State) (es : List EnvAct), s.Waits .restart → s.envQ = .restartDone :: es →
      step s = .next { s with
        rsen := false, bus := s.bus ++ [.sr], ts := .restartSent, wst := .ready, uq := s.uq.tail, upc := s.upc + 1
        envQ := es })
  ∧ StuckAlone .restart ∧ FaultsOutside .restart [.addrSentW, .dataSent, .recvNacked, .nacked]

/-- R106: `I2C_SEND`, acknowledged. The first byte after `S` or `Sr` is the address byte and its bit 0 the direction;
a later byte is data. -/
def Obligations.SendFollowsItsRule : Prop :=
  (∀ b : Byte, encode (.i2cSend b) = [0x13000000 ||| b.setWidth 32])
  ∧ (∀ (s : State) (b : Byte) (es : List EnvAct), s.Quiet → s.sched = [] → s.on = true →
      s.ts ∈ [TxState.startSent, .addrSentW, .dataSent, .restartSent] → s.envQ = .txDone 0 :: es →
      exec (.i2cSend b) s = .next (s.load [.send b])
      ∧ Runs 3 (s.load [.send b])
          (({ s with
              trn := b, trstat := false, ackstat := 0, bus := s.bus ++ [.tx b 0], t0 := s.tick, envQ := es
              ts := if s.ts = .addrSentW ∨ s.ts = .dataSent then .dataSent
                    else if b.getLsbD 0 then .addrSentR else .addrSentW } : State).retired 1 .ok))
  ∧ (∀ (s : State) (b : Byte) (rest : List MicroOp), s.AtHead (.send b) rest → s.on = true →
      s.ts ∈ [TxState.startSent, .addrSentW, .dataSent, .restartSent] →
      step s = .next { s with trn := b, trstat := true, t0 := s.tick, wst := .waiting (.send b) })
  ∧ (∀ (s : State) (b : Byte) (es : List EnvAct), s.Waits (.send b) → s.envQ = .txDone 0 :: es →
      s.ts ∈ [TxState.startSent, .addrSentW, .dataSent, .restartSent] →
      step s = .next { s with
        trstat := false, ackstat := 0, bus := s.bus ++ [.tx b 0], wst := .ready, uq := s.uq.tail, upc := s.upc + 1
        envQ := es
        ts := if s.ts = .addrSentW ∨ s.ts = .dataSent then .dataSent
              else if b.getLsbD 0 then .addrSentR else .addrSentW })
  ∧ (∀ b, StuckAlone (.send b))
  ∧ (∀ b, FaultsOutside (.send b) [.startSent, .addrSentW, .dataSent, .restartSent])

/-- R107: the NACK outcome of `SEND`, in both modes; after a reported NACK only `STOP` and `RESTART` are legal; after a
hang no event is emitted before a reset. -/
def Obligations.NackOutcomeOfSend : Prop :=
  (∀ (s : State) (b : Byte) (es : List EnvAct), s.Waits (.send b) → s.envQ = .txDone 1 :: es →
    (s.params.errMode = .legacyHang →
      step s = .next { s with
        trstat := false, ackstat := 1, bus := s.bus ++ [.tx b 1], wst := .ready, hung := true, envQ := es })
    ∧ (s.params.errMode = .report →
      step s = .next { s with
        trstat := false, ackstat := 1, bus := s.bus ++ [.tx b 1], ts := .nacked, st := .nack, wst := .ready
        upc := s.upc + 1, uq := if s.uq.tail = [] then [] else [.stop], envQ := es }))
  ∧ (∀ (s : State) (b : Byte) (es : List EnvAct), s.Quiet → s.sched = [] → s.on = true →
      s.ts ∈ [TxState.startSent, .addrSentW, .dataSent, .restartSent] → s.params.errMode = .report →
      s.envQ = .txDone 1 :: es →
      exec (.i2cSend b) s = .next (s.load [.send b])
      ∧ Runs 3 (s.load [.send b])
          (({ s with
              trn := b, trstat := false, ackstat := 1, bus := s.bus ++ [.tx b 1], t0 := s.tick, envQ := es
              ts := .nacked } : State).retired 1 .nack))
  ∧ (∀ m : MicroOp, m.isBus = true ∨ m = .enable → (legal m .nacked = true ↔ m = .stop ∨ m = .restart))
  ∧ (∀ s t : State, s.hung = true → step s = .next t → s.sched.head? ≠ some .reset → t.bus = s.bus ∧ t.hung = true)

/-- R108: `I2C_RECV`; the byte goes to `RSP` and `RCV`, and `RBF` is 0 again at the step boundary. -/
def Obligations.RecvFollowsItsRule : Prop :=
  encode .i2cRecv = [0x14000000]
  ∧ (∀ (s : State) (d : Byte) (es : List EnvAct), s.Quiet → s.sched = [] → s.on = true →
      s.ts ∈ [TxState.addrSentR, .recvAcked] → s.envQ = .rxDone d :: es →
      exec .i2cRecv s = .next (s.load [.recv])
      ∧ Runs 3 (s.load [.recv])
          (({ s with
              rcen := false, rcv := d, rbf := false, rsp := s.rsp ++ [d], bus := s.bus ++ [.rx d], ts := .dataRecv
              t0 := s.tick, envQ := es } : State).retired 1 .ok))
  ∧ (∀ (s : State) (rest : List MicroOp), s.AtHead .recv rest → s.on = true →
      s.ts ∈ [TxState.addrSentR, .recvAcked] →
      step s = .next { s with rcen := true, t0 := s.tick, wst := .waiting .recv })
  ∧ (∀ (s : State) (d : Byte) (es : List EnvAct), s.Waits .recv → s.envQ = .rxDone d :: es →
      step s = .next { s with
        rcen := false, rcv := d, rbf := false, rsp := s.rsp ++ [d], bus := s.bus ++ [.rx d], ts := .dataRecv
        wst := .ready, uq := s.uq.tail, upc := s.upc + 1, envQ := es })
  ∧ StuckAlone .recv ∧ FaultsOutside .recv [.addrSentR, .recvAcked]

/-- R109: `I2C_ACK`; 0 sends ACK and 1 sends NACK. -/
def Obligations.AckFollowsItsRule : Prop :=
  encode (.i2cAck 0) = [0x15000000] ∧ encode (.i2cAck 1) = [0x15000001]
  ∧ (∀ (s : State) (a : BitVec 1) (es : List EnvAct), s.Quiet → s.sched = [] → s.on = true → s.ts = .dataRecv →
      s.envQ = .ackDone :: es →
      exec (.i2cAck a) s = .next (s.load [.ack a])
      ∧ Runs 3 (s.load [.ack a])
          (({ s with
              acken := false, ackdt := a, bus := s.bus ++ [.ma a], t0 := s.tick, envQ := es
              ts := if a = 0 then .recvAcked else .recvNacked } : State).retired 1 .ok))
  ∧ (∀ (s : State) (a : BitVec 1) (rest : List MicroOp), s.AtHead (.ack a) rest → s.on = true → s.ts = .dataRecv →
      step s = .next { s with ackdt := a, acken := true, t0 := s.tick, wst := .waiting (.ack a) })
  ∧ (∀ (s : State) (a : BitVec 1) (es : List EnvAct), s.Waits (.ack a) → s.envQ = .ackDone :: es →
      step s = .next { s with
        acken := false, bus := s.bus ++ [.ma a], ts := if a = 0 then .recvAcked else .recvNacked, wst := .ready
        uq := s.uq.tail, upc := s.upc + 1, envQ := es })
  ∧ (∀ a, StuckAlone (.ack a)) ∧ (∀ a, FaultsOutside (.ack a) [.dataRecv])
  ∧ legal .stop .recvAcked = false ∧ legal .restart .recvAcked = false

/-- R110: `I2C_STOP`; `ts` is `STOP_SENT` from the issue to the completion. The issue of every other micro-operation
leaves `ts` as it was, whether it faults or not, in the default order of the agents and on the block's own turn. -/
def Obligations.StopFollowsItsRule : Prop :=
  encode .i2cStop = [0x16000000]
  ∧ (∀ (s : State) (es : List EnvAct), s.Quiet → s.sched = [] → s.on = true →
      s.ts ∈ [TxState.addrSentW, .dataSent, .recvNacked, .nacked] → s.envQ = .stopDone :: es →
      exec .i2cStop s = .next (s.load [.stop])
      ∧ Runs 3 (s.load [.stop])
          (({ s with pen := false, bus := s.bus ++ [.p], ts := .idle, t0 := s.tick, envQ := es } : State).retired 1 .ok))
  ∧ (∀ (s : State) (rest : List MicroOp), s.AtHead .stop rest → s.on = true →
      s.ts ∈ [TxState.addrSentW, .dataSent, .recvNacked, .nacked] →
      step s = .next { s with pen := true, ts := .stopSent, t0 := s.tick, wst := .waiting .stop })
  ∧ (∀ (s : State) (es : List EnvAct), s.Waits .stop → s.envQ = .stopDone :: es →
      step s = .next { s with
        pen := false, bus := s.bus ++ [.p], ts := .idle, wst := .ready, uq := s.uq.tail, upc := s.upc + 1
        envQ := es })
  ∧ StuckAlone .stop ∧ FaultsOutside .stop [.addrSentW, .dataSent, .recvNacked, .nacked]
  ∧ (∀ (s t : State) (m : MicroOp) (rest : List MicroOp), s.running = true → s.wst = .ready → s.uq = m :: rest →
      (s.sched = [] ∨ s.sched.head? = some .block) → m ≠ .stop → step s = .next t → t.ts = s.ts)

/-- R111, R27: in a coherent state every change of `ts` but a reset's is an edge of the transaction state machine. -/
def Obligations.TsFollowsTheTable : Prop :=
  ∀ s t : State, s.Inv → step s = .next t → t.ts ≠ s.ts → s.sched.head? ≠ some .reset → tsEdge s.ts t.ts = true

/-- R101, R112: retirement appends `st` to `CPL` and clears `busy`, and in `LEGACY_HANG` mode no status but `OK` is
ever appended. -/
def Obligations.RetirementPushesTheStatus : Prop :=
  (∀ s : State, s.running = true → s.wst = .ready → s.uq = [] → s.sched = [] →
    step s = .next { s with cpl := s.cpl ++ [s.st], busy := false })
  ∧ ∀ s t : State, s.Inv → s.params.errMode = .legacyHang → step s = .next t →
      t.cpl = s.cpl ∨ t.cpl = s.cpl ++ [.ok]

/-! ## The composites (spec/41_i2c_composites.md) -/

/-- `I2C_WRREG`, every byte acknowledged: the trace `[S, TX(addrW(dev),0), TX(reg,0), TX(v,0), P]` and the whole state
after retirement; the address byte is the address in bits 7:1 with bit 0 clear (R53). -/
def Obligations.WriteRegisterCompletes : Prop :=
  ∀ (s : State) (dev : BitVec 7) (reg v : Byte) (es : List EnvAct), s.Quiet → s.sched = [] → s.on = true →
    s.ts = .idle → s.envQ = writeAnswers ++ es →
    addrW dev = dev ++ 0#1
    ∧ exec (.i2cWrreg dev reg v) s = .next (s.load (writeTxn dev reg v))
    ∧ Runs 11 (s.load (writeTxn dev reg v))
        (({ s with
            sen := false, pen := false, trstat := false, ackstat := 0, trn := v, t0 := s.tick, envQ := es
            bus := s.bus ++ [.s, .tx (addrW dev) 0, .tx reg 0, .tx v 0, .p] } : State).retired 5 .ok)

/-- `I2C_WRREG` with the k-th byte not acknowledged: the remaining bytes are never sent; the block hangs, or sends one
`STOP` and retires `NACK`. -/
def Obligations.WriteRegisterNack : Prop :=
  ∀ (s : State) (dev : BitVec 7) (reg v : Byte) (k : Nat) (es : List EnvAct), s.Quiet → s.sched = [] → s.on = true →
    s.ts = .idle → k < 3 → s.envQ = [.startDone] ++ List.replicate k (.txDone 0) ++ [.txDone 1, .stopDone] ++ es →
    exec (.i2cWrreg dev reg v) s = .next (s.load (writeTxn dev reg v))
    ∧ ∃ u : State,
        u.bus = s.bus ++ [.s] ++ ([.tx (addrW dev) 0, .tx reg 0, .tx v 0].take k : List BusEvent)
          ++ [.tx ([addrW dev, reg, v].getD k 0) 1] ++ (if s.params.errMode = .report then [.p] else [])
        ∧ u.rsp = s.rsp
        ∧ (s.params.errMode = .legacyHang → Runs (4 + 2 * k) (s.load (writeTxn dev reg v)) u
            ∧ u.hung = true ∧ u.busy = true ∧ u.cpl = s.cpl ∧ u.uq = (writeTxn dev reg v).drop (k + 1)
            ∧ u.upc = BitVec.ofNat 16 (k + 1))
        ∧ (s.params.errMode = .report → Runs (7 + 2 * k) (s.load (writeTxn dev reg v)) u
            ∧ u.ts = .idle ∧ u.busy = false ∧ u.cpl = s.cpl ++ [.nack] ∧ u.upc = BitVec.ofNat 16 (k + 3))

/-- `I2C_RDREG`, every sent byte acknowledged and the slave supplying `d`; the read address byte is the address in bits
7:1 with bit 0 set (R53). -/
def Obligations.ReadRegisterCompletes : Prop :=
  ∀ (s : State) (dev : BitVec 7) (reg d : Byte) (es : List EnvAct), s.Quiet → s.sched = [] → s.on = true →
    s.ts = .idle → s.envQ = readHeadAnswers ++ [.rxDone d, .ackDone, .stopDone] ++ es →
    addrR dev = dev ++ 1#1
    ∧ exec (.i2cRdreg dev reg) s = .next (s.load (readTxn dev reg))
    ∧ Runs 17 (s.load (readTxn dev reg))
        (({ s with
            sen := false, rsen := false, pen := false, rcen := false, acken := false, ackdt := 1, trstat := false
            ackstat := 0, rbf := false, trn := addrR dev, rcv := d, t0 := s.tick, rsp := s.rsp ++ [d], envQ := es
            bus := s.bus ++ [.s, .tx (addrW dev) 0, .tx reg 0, .sr, .tx (addrR dev) 0, .rx d, .ma 1, .p] } : State).retired 8 .ok)

/-- `I2C_RDMULT` of `n = count` bytes, 1 to 255: `n - 1` ACKs, then one NACK, and the bytes on `RSP` in order. -/
def Obligations.ReadMultipleCompletes : Prop :=
  ∀ (s : State) (dev : BitVec 7) (reg count : Byte) (d : Byte) (ds : List Byte) (es : List EnvAct), s.Quiet →
    s.sched = [] → s.on = true → s.ts = .idle → (ds ++ [d]).length = count.toNat →
    s.envQ = readHeadAnswers ++ burstAnswers (ds ++ [d]) ++ [.stopDone] ++ es →
    exec (.i2cRdmult dev reg count) s = .next (s.load (readManyTxn dev reg count.toNat))
    ∧ Runs (13 + 4 * count.toNat) (s.load (readManyTxn dev reg count.toNat))
        (({ s with
            sen := false, rsen := false, pen := false, rcen := false, acken := false, ackdt := 1, trstat := false
            ackstat := 0, rbf := false, trn := addrR dev, rcv := d, t0 := s.tick, rsp := s.rsp ++ ds ++ [d], envQ := es
            bus := s.bus ++ readHeadTrace dev reg ++ burstTrace (ds ++ [d]) ++ [.p] } : State).retired (6 + 2 * count.toNat) .ok)

/-- R123: `I2C_RDMULT dev, reg, 1` has the same expansion as `I2C_RDREG dev, reg`. -/
def Obligations.ReadOneIsReadRegister : Prop :=
  ∀ (s : State) (dev : BitVec 7) (reg : Byte), exec (.i2cRdmult dev reg 1) s = exec (.i2cRdreg dev reg) s

/-- R124: in `REPORT` mode a NACK inside a composite or pipeline command drops the whole remainder, sends one `STOP`
and retires `NACK` with the bus free; bytes already on `RSP` stay. -/
def Obligations.NackInCommandAborts : Prop :=
  ∀ (s : State) (b : Byte) (m m' : MicroOp) (rest : List MicroOp) (es : List EnvAct), s.Waits (.send b) →
    s.uq = m :: m' :: rest → s.on = true → s.params.errMode = .report → s.envQ = .txDone 1 :: .stopDone :: es →
    Runs 4 s { s with
      trstat := false, ackstat := 1, pen := false, bus := s.bus ++ [.tx b 1, .p], ts := .idle, st := .nack
      wst := .ready, uq := [], upc := s.upc + 2, t0 := s.tick, cpl := s.cpl ++ [.nack], busy := false, envQ := es }

/-- R125: `I2C_WRREG` and its five primitives, given the same answers, end in the same state but for `CPL` (one `OK`
per primitive) and `upc` (per command). -/
def Obligations.WriteRegisterIsItsPrimitives : Prop :=
  ∀ (s : State) (dev : BitVec 7) (reg v : Byte) (es : List EnvAct), s.Quiet → s.sched = [] → s.on = true →
    s.ts = .idle → s.envQ = writeAnswers ++ es →
    ∃ u : State,
      Runs 12 { s with hostQ := encode (.i2cWrreg dev reg v) } u
      ∧ u.cpl = s.cpl ++ [.ok] ∧ u.upc = 5 ∧ u.busy = false ∧ u.hostQ = []
      ∧ Runs 20 { s with
          hostQ := encode .i2cStart ++ encode (.i2cSend (addrW dev)) ++ encode (.i2cSend reg) ++ encode (.i2cSend v)
            ++ encode .i2cStop }
          { u with cpl := s.cpl ++ [.ok, .ok, .ok, .ok, .ok], upc := 1 }

/-! ## The framebuffer (spec/10_state.md R33, spec/42_oled_framebuffer.md) -/

/-- R33: a pixel is a bit of `FB`; the map (x, y) -> (idx, bit) is a bijection from the 4096 pixels onto the 4096 bits
of `FB`. -/
def Obligations.PixelMapIsBijective : Prop :=
  (∀ e fb x y, pixel e fb x y = (fbGet e fb (x + (y / 8) * 128)).getLsbD (y % 8))
  ∧ (∀ x y, x < 128 → y < 32 → pixelIdx x y = x + (y / 8) * 128 ∧ pixelIdx x y < 512 ∧ y % 8 < 8)
  ∧ (∀ x y x' y', x < 128 → y < 32 → x' < 128 → y' < 32 → pixelIdx x y = pixelIdx x' y' → y % 8 = y' % 8 →
      x = x' ∧ y = y')
  ∧ (∀ i b, i < 512 → b < 8 → ∃ x y, x < 128 ∧ y < 32 ∧ pixelIdx x y = i ∧ y % 8 = b)

/-- R130: `setpix`. Out of range it returns `fb`; in range it changes one bit of one byte; applied twice it equals
once; on different in-range pixels it commutes. `FBDRAW(f)` performs `FB <- f(FB)` in one step. -/
def Obligations.SetpixFollowsItsRule : Prop :=
  (∀ (e : Nat) (fb : Mem) (x y : Nat) (c : Bool), memWf fb = true →
    (128 ≤ x ∨ 32 ≤ y → setpix e fb x y c = fb)
    ∧ (x < 128 → y < 32 →
        fbGet e (setpix e fb x y c) (pixelIdx x y) =
          (if c then fbGet e fb (pixelIdx x y) ||| (1#8 <<< (y % 8)) else fbGet e fb (pixelIdx x y) &&& ~~~(1#8 <<< (y % 8)))
        ∧ (∀ i, i ≠ pixelIdx x y → fbGet e (setpix e fb x y c) i = fbGet e fb i)
        ∧ pixel e (setpix e fb x y c) x y = c
        ∧ (∀ x' y', x' < 128 → y' < 32 → (x' ≠ x ∨ y' ≠ y) →
            pixel e (setpix e fb x y c) x' y' = pixel e fb x' y'
            ∧ ∀ c', setpix e (setpix e fb x y c) x' y' c' = setpix e (setpix e fb x' y' c') x y c)
        ∧ setpix e (setpix e fb x y c) x y c = setpix e fb x y c))
  ∧ ∀ (s : State) (d : Draw) (rest : List MicroOp), s.AtHead (.fbDraw d) rest →
      step s = .next { s with fb := drawOn s.fbEpoch s.params s.fb d, uq := rest, upc := s.upc + 1 }

/-- R131: `OLED_PIXEL` changes at most one bit of `FB` and retires `OK`, with or without the engine, whatever `ts`;
color 1 sets, every other color clears, out of range nothing. -/
def Obligations.PixelFollowsItsRule : Prop :=
  (∀ (x y color : Byte), encode (.oledPixel x y color) = [0x22#8 ++ x ++ y ++ color])
  ∧ ∀ (s : State) (x y color : Byte), s.Quiet → s.sched = [] → memWf s.fb = true →
      exec (.oledPixel x y color) s = .next (s.load [.fbDraw (.pixel x y color)])
      ∧ ∃ fb', Runs 2 (s.load [.fbDraw (.pixel x y color)]) (({ s with fb := fb' } : State).retired 1 .ok)
        ∧ (128 ≤ x.toNat ∨ 32 ≤ y.toNat → fb' = s.fb)
        ∧ (x.toNat < 128 → y.toNat < 32 →
            pixel s.fbEpoch fb' x.toNat y.toNat = decide (color = 1)
            ∧ ∀ px py, px < 128 → py < 32 → (px ≠ x.toNat ∨ py ≠ y.toNat) →
                pixel s.fbEpoch fb' px py = pixel s.fbEpoch s.fb px py)

/-- R132: `OLED_CLEAR` gives every byte of `FB` the value 0, whatever it held, and changes nothing else; `FBCLEAR` is
part of no other command but `OLED_SETUP`. -/
def Obligations.ClearFollowsItsRule : Prop :=
  encode .oledClear = [0x23000000]
  ∧ (∀ (p : Params) (i : Instr), MicroOp.fbClear ∈ expand p i ↔ i = .oledClear ∨ i = .oledSetup)
  ∧ ∀ s : State, s.Quiet → s.sched = [] →
      exec .oledClear s = .next (s.load [.fbClear])
      ∧ ∃ fb', Runs 2 (s.load [.fbClear]) (({ s with fb := fb' } : State).retired 1 .ok)
        ∧ ∀ i, i < 512 → fbGet s.fbEpoch fb' i = 0

/-- R133: `OLED_LETTER` draws the 5 x 8 cell opaquely: every in-range pixel of the cell becomes its glyph bit, every
other pixel stays. -/
def Obligations.LetterFollowsItsRule : Prop :=
  (∀ (x y ch : Byte), encode (.oledLetter x y ch) = [0x25#8 ++ x ++ y ++ ch])
  ∧ ∀ (s : State) (x y ch : Byte), s.Quiet → s.sched = [] → memWf s.fb = true →
      exec (.oledLetter x y ch) s = .next (s.load [.fbDraw (.letter x y ch)])
      ∧ ∃ fb', Runs 2 (s.load [.fbDraw (.letter x y ch)]) (({ s with fb := fb' } : State).retired 1 .ok)
        ∧ ∀ px py, px < 128 → py < 32 →
            pixel s.fbEpoch fb' px py =
              if inCell x.toNat y.toNat px py then (glyph s.params ch (px - x.toNat)).getLsbD (py - y.toNat)
              else pixel s.fbEpoch s.fb px py

/-- E4, R133: a letter drawn at (0, 0) reads back as its glyph's column bytes; the other bytes stay. -/
def Obligations.LetterAtOriginRoundTrips : Prop :=
  ∀ (e : Nat) (p : Params) (fb : Mem) (ch : Byte), memWf fb = true →
    (∀ i, i < 5 → fbGet e (letter e p fb 0 0 ch) i = glyph p ch i)
    ∧ ∀ i, 5 ≤ i → fbGet e (letter e p fb 0 0 ch) i = fbGet e fb i

/-- R134: `OLED_MSG` draws its characters in the cells of `msgCells` and touches no other pixel. -/
def Obligations.MessageFollowsItsRule : Prop :=
  (∀ (x y : Byte) (text : List Byte),
    encode (.oledMsg x y text) = (0x26#8 ++ x ++ y ++ BitVec.ofNat 8 text.length) :: text.map (0#24 ++ ·))
  ∧ ∀ (s : State) (x y : Byte) (text : List Byte), s.Quiet → s.sched = [] → memWf s.fb = true →
    exec (.oledMsg x y text) s = .next (s.load [.fbDraw (.message x y text)])
    ∧ ∃ fb', Runs 2 (s.load [.fbDraw (.message x y text)]) (({ s with fb := fb' } : State).retired 1 .ok)
      ∧ ∀ px py, px < 128 → py < 32 →
          (∀ cx cy ch, (cx, cy, ch) ∈ msgCells x.toNat y.toNat text → inCell cx cy px py = true →
            pixel s.fbEpoch fb' px py = (glyph s.params ch (px - cx)).getLsbD (py - cy))
          ∧ ((∀ cx cy ch, (cx, cy, ch) ∈ msgCells x.toNat y.toNat text → inCell cx cy px py = false) →
            pixel s.fbEpoch fb' px py = pixel s.fbEpoch s.fb px py)

/-- E5, R134, 90_conflicts.md C7: the exact wrap point, of the function an `FBDRAW` performs. A start at 123 or beyond
is a start at 0 on the next line; a start up to 122 draws its character there and goes on 5 further right. So from
x = 0 a line holds 25 characters: character `k` is drawn at column `5 * (k mod 25)`, line `k div 25`, and nothing else
is drawn. Column 127 is drawn from no start: no character stands at 123 or beyond. -/
def Obligations.MessageWrapPoint : Prop :=
  ∀ (e : Nat) (p : Params) (fb : Mem),
    (∀ (x y : Byte) (text : List Byte), 123 ≤ x.toNat →
      drawOn e p fb (.message x y text) = message e p fb 0 (y.toNat + 8) text)
    ∧ (∀ (x y ch : Byte) (text : List Byte), x.toNat ≤ 122 →
      drawOn e p fb (.message x y (ch :: text))
        = message e p (letter e p fb x.toNat y.toNat ch) (x.toNat + 5) y.toNat text)
    ∧ (memWf fb = true → ∀ (y : Byte) (text : List Byte) (px py : Nat), px < 128 → py < 32 →
      (∀ (k : Nat) (h : k < text.length), inCell (5 * (k % 25)) (y.toNat + 8 * (k / 25)) px py = true →
        pixel e (drawOn e p fb (.message 0 y text)) px py
          = (glyph p text[k] (px - 5 * (k % 25))).getLsbD (py - (y.toNat + 8 * (k / 25))))
      ∧ ((∀ k, k < text.length → inCell (5 * (k % 25)) (y.toNat + 8 * (k / 25)) px py = false) →
        pixel e (drawOn e p fb (.message 0 y text)) px py = pixel e fb px py))
    ∧ (memWf fb = true → ∀ (x y : Byte) (text : List Byte) (py : Nat), py < 32 →
      pixel e (drawOn e p fb (.message x y text)) 127 py = pixel e fb 127 py)

/-- R32: `FB` is written only by `FBCLEAR` and `FBDRAW` (and made unspecified by a reset): no other step changes any
byte. -/
def Obligations.OnlyDrawingWritesTheFramebuffer : Prop :=
  ∀ s t : State, step s = .next t → s.sched.head? ≠ some .reset →
    (∀ d, s.uq.head? ≠ some (.fbDraw d)) → s.uq.head? ≠ some .fbClear → ∀ i, t.fbByte i = s.fbByte i

/-! ## The pipeline (spec/43_oled_pipeline.md) -/

/-- R141: `OLED_CMD c` is the transaction `[S, TX(addrW(OLED_ADDR7),0), TX(0x00,0), TX(c,0), P]`, and is equivalent to
`I2C_WRREG OLED_ADDR7, 0x00, c`. -/
def Obligations.DisplayCommandCompletes : Prop :=
  ∀ (s : State) (c : Byte), exec (.oledCmd c) s = exec (.i2cWrreg s.params.oledAddr7 0x00 c) s
    ∧ ∀ es : List EnvAct, s.Quiet → s.sched = [] → s.on = true → s.ts = .idle → s.envQ = writeAnswers ++ es →
      exec (.oledCmd c) s = .next (s.load (cmdTxn s.params.oledAddr7 c))
      ∧ Runs 11 (s.load (cmdTxn s.params.oledAddr7 c))
          (({ s with
              sen := false, pen := false, trstat := false, ackstat := 0, trn := c, t0 := s.tick, envQ := es
              bus := s.bus ++ [.s, .tx (addrW s.params.oledAddr7) 0, .tx 0x00 0, .tx c 0, .p] } : State).retired 5 .ok)

/-- R144: `SENDFB(i)` reads `FB[i]` at its issue step, then is exactly `SEND(b)`. -/
def Obligations.SendFbReadsAtItsIssue : Prop :=
  ∀ (s : State) (i : BitVec 9) (rest : List MicroOp), s.AtHead (.sendFb i) rest → s.on = true →
    s.ts ∈ [TxState.startSent, .addrSentW, .dataSent, .restartSent] →
    step s = .next { s with
      trn := s.fbByte i.toNat, trstat := true, t0 := s.tick, wst := .waiting (.send (s.fbByte i.toNat)) }

/-- `OLED_UPDATE`, every byte acknowledged: the window bytes, each its own transaction, then all 512 bytes of `FB` in
ascending order behind 0x40 in one transaction; `FB` is not written. -/
def Obligations.UpdateCompletes : Prop :=
  ∀ (s : State) (es : List EnvAct), s.Quiet → s.sched = [] → s.on = true → s.ts = .idle →
    s.envQ = cmdSeqAnswers s.params.windowSeq.length ++ dataAnswers ++ es →
    exec .oledUpdate s = .next (s.load (updateOps s.params))
    ∧ Runs (2 * (5 * s.params.windowSeq.length + 516) + 1) (s.load (updateOps s.params))
        (({ s with
            sen := false, pen := false, trstat := false, ackstat := 0, trn := s.fbByte 511, t0 := s.tick, envQ := es
            bus := s.bus ++ cmdSeqTrace s.params.oledAddr7 s.params.windowSeq
              ++ dataTrace s.params.oledAddr7 s.fbByte } : State).retired (5 * s.params.windowSeq.length + 516) .ok)

/-- `OLED_SETUP`: the settle delay, then `INIT_SEQ` byte by byte, then `FB` cleared, then the update with all 512 data
bytes 0. The schedule lets the block issue the delay and the tick source then advance by at least `SETTLE_TICKS`. With
the engine off it faults `NOT_ENABLED` at its first `START`, after the delay: the one of the first `INIT_SEQ` byte, or
where `INIT_SEQ` is empty the first one of the update, after the clear. -/
def Obligations.DisplaySetupCompletes : Prop :=
  ∀ (s : State) (d : Word) (es : List EnvAct), s.Quiet → s.sched = [.block, .tick d] → s.ts = .idle →
    s.params.settleTicks ≤ d →
    exec .oledSetup s = .next (s.load (setupOps s.params))
    ∧ (s.on = false → s.params.initSeq ≠ [] → Runs 4 (s.load (setupOps s.params))
        { s with
          busy := true, st := .ok, upc := 1, uq := (setupOps s.params).tail, t0 := s.tick, tick := s.tick + d
          sched := [], fault := .notEnabled })
    ∧ (s.on = false → s.params.initSeq = [] → Runs 5 (s.load (setupOps s.params))
        { s with
          busy := true, st := .ok, upc := 2, uq := updateOps s.params, t0 := s.tick, tick := s.tick + d
          sched := [], fb := fbZero, fault := .notEnabled })
    ∧ (s.on = true →
        s.envQ = cmdSeqAnswers s.params.initSeq.length ++ cmdSeqAnswers s.params.windowSeq.length ++ dataAnswers ++ es →
        Runs (2 * (5 * s.params.initSeq.length + 5 * s.params.windowSeq.length + 516) + 5)
          (s.load (setupOps s.params))
          (({ s with
              sen := false, pen := false, trstat := false, ackstat := 0, trn := 0, t0 := s.tick + d
              tick := s.tick + d, sched := [], envQ := es, fb := fbZero
              bus := s.bus ++ cmdSeqTrace s.params.oledAddr7 s.params.initSeq
                ++ cmdSeqTrace s.params.oledAddr7 s.params.windowSeq
                ++ dataTrace s.params.oledAddr7 (fun _ => 0) } : State).retired
            (5 * s.params.initSeq.length + 5 * s.params.windowSeq.length + 518) .ok))

/-! ## Faults, hang, timeout (spec/60_exceptions.md) -/

/-- R162, R163, R165: a hung or faulted block takes no step of any kind but a reset: whatever turn comes, only the
schedule, the tick input and the record of port reads can change. -/
def Obligations.HaltedUntilReset : Prop :=
  ∀ s t : State, s.alive = false → step s = .next t → s.sched.head? ≠ some .reset →
    t = { s with sched := t.sched, tick := t.tick, reads := t.reads } ∧ s.cmdReady = false

/-- R29, R165: `HUNG` becomes 1 only when a `SEND` completes with the acknowledge bit 1 in `LEGACY_HANG` mode. -/
def Obligations.HungOnlyByNack : Prop :=
  ∀ s t : State, step s = .next t → s.hung = false → t.hung = true →
    s.params.errMode = .legacyHang ∧ ∃ b es, s.wst = .waiting (.send b) ∧ s.envQ = .txDone 1 :: es

/-- R168: `TIMEOUT`. In `REPORT` mode a bus wait of `POLL_TIMEOUT` ticks lets the block push `TIMEOUT` and fault, the
request bit and `ts` staying; a completion enabled with it may be taken instead; in `LEGACY_HANG` mode, and before
`POLL_TIMEOUT` ticks, the step does not exist; `DELAY` is never timed out (R145). That the block's turn, or in the
default order the lack of a completion, lets it happen is the model's (log entry 1). -/
def Obligations.TimeoutFollowsItsRule : Prop :=
  (∀ (s : State) (m : MicroOp), s.Waits m → m.isBus = true → s.params.errMode = .report →
    s.params.pollTimeout ≤ s.elapsed → s.envQ = [] →
    step s = .next { s with st := .timeout, cpl := s.cpl ++ [.timeout], fault := .timeout })
  ∧ (∀ (s : State) (m : MicroOp) (ts : List Turn), s.running = true → s.wst = .waiting m → s.sched = .block :: ts →
      m.isBus = true → s.params.errMode = .report → s.params.pollTimeout ≤ s.elapsed →
      step s = .next { s with st := .timeout, cpl := s.cpl ++ [.timeout], fault := .timeout, sched := ts })
  ∧ (∀ (s t : State) (m : MicroOp) (e : EnvAct) (es : List EnvAct), s.Waits m → s.envQ = e :: es →
      complete m e { s with envQ := es } = some t → step s = .next t)
  ∧ (∀ (s : State) (m : MicroOp) (ts : List Turn), s.wst = .waiting m → s.sched = .block :: ts →
      (s.NotTimedOut ∨ ∃ n, m = .delay n) → step s = .next { s with sched := ts })

/-- R145, R172: `DELAY(n)` samples `tick` at its issue and completes when `n` ticks have passed, modulo 2^32; before
that, whatever the environment and the mode, the block stays in the wait. -/
def Obligations.DelayFollowsItsRule : Prop :=
  (∀ (s : State) (n : Word) (rest : List MicroOp), s.AtHead (.delay n) rest →
    step s = .next { s with t0 := s.tick, wst := .waiting (.delay n) })
  ∧ (∀ (s : State) (n : Word), s.Waits (.delay n) → n ≤ s.tick - s.t0 →
      step s = .next { s with wst := .ready, uq := s.uq.tail, upc := s.upc + 1 })
  ∧ (∀ (s : State) (n : Word), s.Waits (.delay n) → ¬ n ≤ s.tick - s.t0 → step s = .next s)

/-! ## Reset (spec/70_reset_and_hazards.md) -/

/-- R38: the machine right after reset has the values of the table and is ready for a command. What each byte of `FB`
holds is a free value (log entry 3); the traces start empty (the model's choice, log entry 10). -/
def Obligations.ResetValues : Prop :=
  State.reset.HasResetValues ∧ State.reset.cmdReady = true ∧ (∀ i, State.reset.fbByte i = Config.fbAtReset 0 i)
  ∧ State.reset.bus = [] ∧ State.reset.rsp = [] ∧ State.reset.cpl = []

/-- R38, R180, R181: a reset, in any state whatever, gives the values of the table, keeps the traces, `tick` and the
parameters, makes every byte of `FB` unspecified (a free value, log entry 3), and appends `RST` to `BUS` exactly when
a transaction is open. That it leaves the lists of the other agents alone is the model's (log entries 1 and 5). -/
def Obligations.ResetEvent : Prop :=
  ∀ (s : State) (ts : List Turn), s.sched = .reset :: ts →
    ∃ t : State, step s = .next t
      ∧ t.HasResetValues ∧ t.cmdReady = true ∧ (∀ i, t.fbByte i = Config.fbAtReset t.fbEpoch i)
      ∧ t.rsp = s.rsp ∧ t.cpl = s.cpl ∧ t.tick = s.tick ∧ t.params = s.params
      ∧ t.hostQ = s.hostQ ∧ t.envQ = s.envQ ∧ t.sched = ts ∧ t.reads = s.reads
      ∧ ((s.ts ≠ .idle ∨ ∃ m, m.isBus = true ∧ s.wst = .waiting m) → t.bus = s.bus ++ [.rst])
      ∧ (s.ts = .idle → (s.wst = .ready ∨ ∃ n, s.wst = .waiting (.delay n)) → t.bus = s.bus)

/-! ## Ports (spec/10_state.md R30, R31, R34) -/

/-- R30: the CSR map, bit by bit; unlisted bits and the reserved indices read 0. The fields `ts`, `st` and `code` show
the codes of the tables of R26, R28 and R161. -/
def Obligations.CsrMap : Prop :=
  ∀ s : State,
    (∀ k, (csrView s 0).getLsbD k = match k with
      | 0 => s.sen | 1 => s.rsen | 2 => s.pen | 3 => s.rcen | 4 => s.acken | 5 => s.ackdt.getLsbD 0 | 15 => s.on
      | _ => false)
    ∧ (∀ k, (csrView s 1).getLsbD k = match k with
      | 1 => s.rbf | 14 => s.trstat | 15 => s.ackstat.getLsbD 0 | _ => false)
    ∧ csrView s 2 = s.brg.setWidth 32 ∧ csrView s 3 = s.trn.setWidth 32 ∧ csrView s 4 = s.rcv.setWidth 32
    ∧ (csrView s 5).extractLsb' 0 4 = (match s.ts with
      | .idle => 0 | .startSent => 1 | .addrSentW => 2 | .dataSent => 3 | .restartSent => 4 | .addrSentR => 5
      | .dataRecv => 6 | .recvAcked => 7 | .recvNacked => 8 | .stopSent => 9 | .nacked => 10)
    ∧ (csrView s 5).getLsbD 4 = s.busy
    ∧ (csrView s 5).getLsbD 5 = decide (s.wst ≠ .ready) ∧ (csrView s 5).getLsbD 6 = s.hung
    ∧ (csrView s 5).getLsbD 7 = false
    ∧ (csrView s 5).extractLsb' 8 2 = (match s.st with | .ok => 0 | .nack => 1 | .timeout => 2)
    ∧ (csrView s 5).extractLsb' 10 22 = 0
    ∧ csrView s 6 = (match s.fault with
      | .noFault => 0 | .illegalCmd => 1 | .operand => 2 | .notEnabled => 3 | .seq => 4 | .timeout => 5)
    ∧ csrView s 7 = s.upc.setWidth 32
    ∧ ∀ i : BitVec 4, 8 ≤ i.toNat → csrView s i = 0

/-- R31, R34: a read of either port answers the state at the step boundary and has no side effect; the framebuffer
port answers `FB[i]` while `busy = 0`, and while `busy = 1` a byte of which nothing is known (U9). That a read is a turn
of the host and its answer is recorded in `reads` is the model's (log entry 5). -/
def Obligations.PortReadsHaveNoSideEffect : Prop :=
  (∀ (s : State) (i : BitVec 4) (ts : List Turn), s.sched = .readCsr i :: ts →
    step s = .next { s with sched := ts, reads := s.reads ++ [.csr i (csrView s i)] })
  ∧ (∀ (s : State) (i : BitVec 9) (ts : List Turn), s.sched = .readFb i :: ts → s.busy = false →
    step s = .next { s with sched := ts, reads := s.reads ++ [.fb i (s.fbByte i.toNat)] })
  ∧ (∀ (s : State) (i : BitVec 9) (ts : List Turn), s.sched = .readFb i :: ts → s.busy = true →
    ∃ v, step s = .next { s with sched := ts, reads := s.reads ++ [.fb i v] })

/-! ## The whole machine -/

/-- R35, R39: no step changes the configuration. -/
def Obligations.ParametersNeverChange : Prop :=
  ∀ s t : State, step s = .next t → t.params = s.params

/-- R36: the three traces are append-only, at most one entry a step. -/
def Obligations.TracesOnlyGrow : Prop :=
  ∀ s t : State, step s = .next t →
    (t.bus = s.bus ∨ ∃ e, t.bus = s.bus ++ [e]) ∧ (t.rsp = s.rsp ∨ ∃ d, t.rsp = s.rsp ++ [d])
    ∧ (t.cpl = s.cpl ∨ ∃ c, t.cpl = s.cpl ++ [c])

/-- R172: only the tick source writes `tick`. -/
def Obligations.OnlyTheTickSourceWritesTick : Prop :=
  ∀ s t : State, step s = .next t → t.tick ≠ s.tick → ∃ n, s.sched.head? = some (.tick n) ∧ t.tick = s.tick + n

/-- R25: `ON` is set by `ENABLE` only, which loads `BRG` with `BRG_VALUE`, and cleared by reset only. -/
def Obligations.EngineEnabledOnlyBySetup : Prop :=
  ∀ s t : State, step s = .next t →
    (s.on = false → t.on = true → s.uq.head? = some .enable ∧ t.brg = s.params.brgValue)
    ∧ (s.on = true → t.on = false → s.sched.head? = some .reset)

/-- Every step answers a next state: nothing the block is specified to do stops the machine. -/
def Obligations.StepNeverStops : Prop := ∀ s : State, ∃ t, step s = .next t

/-- The invariant holds at reset. It rests on two choices of the model: the empty `BUS` of `State.reset`, which R38 does
not give (log entry 10), and the parameters there, the spec's defaults and free values in range (log entry 2). -/
def Obligations.InvariantAtReset : Prop := State.reset.Inv

/-- Every step keeps the invariant, whatever the host, the environment, the tick source and reset do. -/
def Obligations.InvariantIsKept : Prop := ∀ s t : State, s.Inv → step s = .next t → t.Inv

/-- R27: `ts = IDLE` exactly when no START is unmatched, in every state of the invariant. -/
def Obligations.IdleMeansEveryStartMatched : Prop :=
  ∀ s : State, s.Inv → (s.ts = .idle ↔ busOpen s.bus = false)

/-- R23: at most one of the five request bits and `TRSTAT` is 1. -/
def Obligations.AtMostOneRequest : Prop :=
  ∀ s : State, s.Inv →
    ([s.sen, s.rsen, s.pen, s.rcen, s.acken, s.trstat].filter (fun b => b)).length ≤ 1
end

