-- ==== Sys2Proof/Laws/Decode.lean ====
section
/-! SUPPORT. Laws of the formats: which words each row of the table selects, and the fields of an encoded word. -/

namespace Sys2Proof

/-! ### What a row selects, by its opcode and its reserved bits (R83, R84) -/

theorem hit_op (op : Byte) (w : Word) : rowHit 0xFF000000 (fmtZ op) w = decide (opField w = op) := by
  rw [Bool.eq_iff_iff, decide_eq_true_eq]
  simp only [rowHit, beq_iff_eq, fmtZ, opField, place]
  constructor
  · intro h
    refine BitVec.eq_of_getLsbD_eq fun i hi => ?_
    have := congrArg (fun v => v.getLsbD (24 + i)) h
    interval_cases i <;> simpa using this
  · intro h
    refine BitVec.eq_of_getLsbD_eq fun i hi => ?_
    subst h
    interval_cases i <;> simp

theorem hit_z (op : Byte) (w : Word) :
    rowHit 0xFFFFFFFF (fmtZ op) w = decide (opField w = op ∧ w.extractLsb' 0 24 = 0#24) := by
  rw [Bool.eq_iff_iff, decide_eq_true_eq]
  simp only [rowHit, beq_iff_eq, fmtZ, opField, place]
  constructor
  · intro h
    constructor
    · refine BitVec.eq_of_getLsbD_eq fun i hi => ?_
      have := congrArg (fun v => v.getLsbD (24 + i)) h
      interval_cases i <;> simpa using this
    · refine BitVec.eq_of_getLsbD_eq fun i hi => ?_
      have := congrArg (fun v => v.getLsbD i) h
      interval_cases i <;> simpa using this
  · intro ⟨h, hz⟩
    refine BitVec.eq_of_getLsbD_eq fun i hi => ?_
    subst h
    have := congrArg (fun v => v.getLsbD i) hz
    interval_cases i <;> first | (simp; done) | simpa using this

theorem hit_b (op : Byte) (w : Word) :
    rowHit 0xFFFFFF00 (fmtZ op) w = decide (opField w = op ∧ w.extractLsb' 8 16 = 0#16) := by
  rw [Bool.eq_iff_iff, decide_eq_true_eq]
  simp only [rowHit, beq_iff_eq, fmtZ, opField, place]
  constructor
  · intro h
    constructor
    · refine BitVec.eq_of_getLsbD_eq fun i hi => ?_
      have := congrArg (fun v => v.getLsbD (24 + i)) h
      interval_cases i <;> simpa using this
    · refine BitVec.eq_of_getLsbD_eq fun i hi => ?_
      have := congrArg (fun v => v.getLsbD (8 + i)) h
      interval_cases i <;> simpa using this
  · intro ⟨h, hz⟩
    refine BitVec.eq_of_getLsbD_eq fun i hi => ?_
    subst h
    have := congrArg (fun v => v.getLsbD (i - 8)) hz
    interval_cases i <;> first | (simp; done) | simpa using this

theorem hit_a (op : Byte) (w : Word) :
    rowHit 0xFFFFFFFE (fmtZ op) w = decide (opField w = op ∧ w.extractLsb' 1 23 = 0#23) := by
  rw [Bool.eq_iff_iff, decide_eq_true_eq]
  simp only [rowHit, beq_iff_eq, fmtZ, opField, place]
  constructor
  · intro h
    constructor
    · refine BitVec.eq_of_getLsbD_eq fun i hi => ?_
      have := congrArg (fun v => v.getLsbD (24 + i)) h
      interval_cases i <;> simpa using this
    · refine BitVec.eq_of_getLsbD_eq fun i hi => ?_
      have := congrArg (fun v => v.getLsbD (1 + i)) h
      interval_cases i <;> simpa using this
  · intro ⟨h, hz⟩
    refine BitVec.eq_of_getLsbD_eq fun i hi => ?_
    subst h
    have := congrArg (fun v => v.getLsbD (i - 1)) hz
    interval_cases i <;> first | (simp; done) | simpa using this

theorem hit_drv (op : Byte) (w : Word) :
    rowHit 0xFF800000 (fmtZ op) w = decide (opField w = op ∧ w.getLsbD 23 = false) := by
  rw [Bool.eq_iff_iff, decide_eq_true_eq]
  simp only [rowHit, beq_iff_eq, fmtZ, opField, place]
  constructor
  · intro h
    constructor
    · refine BitVec.eq_of_getLsbD_eq fun i hi => ?_
      have := congrArg (fun v => v.getLsbD (24 + i)) h
      interval_cases i <;> simpa using this
    · simpa using congrArg (fun v => v.getLsbD 23) h
  · intro ⟨h, hz⟩
    refine BitVec.eq_of_getLsbD_eq fun i hi => ?_
    subst h
    interval_cases i <;> first | (simp; done) | simpa using hz

theorem hit_dr (op : Byte) (w : Word) :
    rowHit 0xFF8000FF (fmtZ op) w = decide (opField w = op ∧ w.getLsbD 23 = false ∧ w.extractLsb' 0 8 = 0#8) := by
  rw [Bool.eq_iff_iff, decide_eq_true_eq]
  simp only [rowHit, beq_iff_eq, fmtZ, opField, place]
  constructor
  · intro h
    refine ⟨?_, by simpa using congrArg (fun v => v.getLsbD 23) h, ?_⟩
    · refine BitVec.eq_of_getLsbD_eq fun i hi => ?_
      have := congrArg (fun v => v.getLsbD (24 + i)) h
      interval_cases i <;> simpa using this
    · refine BitVec.eq_of_getLsbD_eq fun i hi => ?_
      have := congrArg (fun v => v.getLsbD i) h
      interval_cases i <;> simpa using this
  · intro ⟨h, hb, hz⟩
    refine BitVec.eq_of_getLsbD_eq fun i hi => ?_
    subst h
    have := congrArg (fun v => v.getLsbD i) hz
    interval_cases i <;> first | (simp; done) | (simpa using hb) | simpa using this

theorem payloadLegal_iff (w : Word) : payloadLegal w = true ↔ w.extractLsb' 8 24 = 0#24 := by
  simp only [payloadLegal, rowHit, beq_iff_eq]
  constructor
  · intro h
    refine BitVec.eq_of_getLsbD_eq fun i hi => ?_
    have := congrArg (fun v => v.getLsbD (8 + i)) h
    interval_cases i <;> simpa using this
  · intro hz
    refine BitVec.eq_of_getLsbD_eq fun i hi => ?_
    have := congrArg (fun v => v.getLsbD (i - 8)) hz
    interval_cases i <;> first | (simp; done) | simpa using this

/-- The single-word decoder by opcode and reserved bits. -/
theorem decodeWord_eq (w : Word) : decodeWord w =
    if opField w = 0x10#8 ∧ w.extractLsb' 0 24 = 0#24 then some .i2cSetup
    else if opField w = 0x11#8 ∧ w.extractLsb' 0 24 = 0#24 then some .i2cStart
    else if opField w = 0x12#8 ∧ w.extractLsb' 0 24 = 0#24 then some .i2cRestart
    else if opField w = 0x13#8 ∧ w.extractLsb' 8 16 = 0#16 then some (.i2cSend (vField w))
    else if opField w = 0x14#8 ∧ w.extractLsb' 0 24 = 0#24 then some .i2cRecv
    else if opField w = 0x15#8 ∧ w.extractLsb' 1 23 = 0#23 then some (.i2cAck (aField w))
    else if opField w = 0x16#8 ∧ w.extractLsb' 0 24 = 0#24 then some .i2cStop
    else if opField w = 0x18#8 ∧ w.getLsbD 23 = false then some (.i2cWrreg (devField w) (yField w) (vField w))
    else if opField w = 0x19#8 ∧ w.getLsbD 23 = false ∧ w.extractLsb' 0 8 = 0#8 then
      some (.i2cRdreg (devField w) (yField w))
    else if opField w = 0x1A#8 ∧ w.getLsbD 23 = false then some (.i2cRdmult (devField w) (yField w) (vField w))
    else if opField w = 0x20#8 ∧ w.extractLsb' 0 24 = 0#24 then some .oledSetup
    else if opField w = 0x21#8 ∧ w.extractLsb' 8 16 = 0#16 then some (.oledCmd (vField w))
    else if opField w = 0x22#8 then some (.oledPixel (xField w) (yField w) (vField w))
    else if opField w = 0x23#8 ∧ w.extractLsb' 0 24 = 0#24 then some .oledClear
    else if opField w = 0x24#8 ∧ w.extractLsb' 0 24 = 0#24 then some .oledUpdate
    else if opField w = 0x25#8 then some (.oledLetter (xField w) (yField w) (vField w))
    else none := by
  simp only [decodeWord,
    show (0x10000000 : Word) = fmtZ 0x10 from rfl, show (0x11000000 : Word) = fmtZ 0x11 from rfl,
    show (0x12000000 : Word) = fmtZ 0x12 from rfl, show (0x13000000 : Word) = fmtZ 0x13 from rfl,
    show (0x14000000 : Word) = fmtZ 0x14 from rfl, show (0x15000000 : Word) = fmtZ 0x15 from rfl,
    show (0x16000000 : Word) = fmtZ 0x16 from rfl, show (0x18000000 : Word) = fmtZ 0x18 from rfl,
    show (0x19000000 : Word) = fmtZ 0x19 from rfl, show (0x1A000000 : Word) = fmtZ 0x1A from rfl,
    show (0x20000000 : Word) = fmtZ 0x20 from rfl, show (0x21000000 : Word) = fmtZ 0x21 from rfl,
    show (0x22000000 : Word) = fmtZ 0x22 from rfl, show (0x23000000 : Word) = fmtZ 0x23 from rfl,
    show (0x24000000 : Word) = fmtZ 0x24 from rfl, show (0x25000000 : Word) = fmtZ 0x25 from rfl,
    hit_op, hit_z, hit_b, hit_a, hit_drv, hit_dr, decide_eq_true_eq]
  rfl

theorem isMsgHeader_eq (w : Word) : isMsgHeader w = decide (opField w = 0x26#8) := by
  simp only [isMsgHeader, show (0x26000000 : Word) = fmtZ 0x26 from rfl, hit_op]
  rfl

/-! ### The fields of an encoded word -/

section Fields
variable (op b x y v reg : Byte) (a : BitVec 1) (dev : BitVec 7)

@[simp] theorem opField_fmtZ : opField (fmtZ op) = op := by
  refine BitVec.eq_of_getLsbD_eq fun i hi => ?_
  simp only [fmtZ, opField, place]; interval_cases i <;> simp

@[simp] theorem opField_fmtB : opField (fmtB op b) = op := by
  refine BitVec.eq_of_getLsbD_eq fun i hi => ?_
  simp only [fmtB, opField, place]; interval_cases i <;> simp

@[simp] theorem opField_fmtA : opField (fmtA op a) = op := by
  refine BitVec.eq_of_getLsbD_eq fun i hi => ?_
  simp only [fmtA, opField, place]; interval_cases i <;> simp

@[simp] theorem opField_fmtDRV : opField (fmtDRV op dev reg v) = op := by
  refine BitVec.eq_of_getLsbD_eq fun i hi => ?_
  simp only [fmtDRV, opField, place]; interval_cases i <;> simp

@[simp] theorem opField_fmtXYV : opField (fmtXYV op x y v) = op := by
  refine BitVec.eq_of_getLsbD_eq fun i hi => ?_
  simp only [fmtXYV, opField, place]; interval_cases i <;> simp

@[simp] theorem zero_fmtZ : (fmtZ op).extractLsb' 0 24 = 0#24 := by
  refine BitVec.eq_of_getLsbD_eq fun i hi => ?_
  simp only [fmtZ, place]; interval_cases i <;> simp

@[simp] theorem zero_fmtB : (fmtB op b).extractLsb' 8 16 = 0#16 := by
  refine BitVec.eq_of_getLsbD_eq fun i hi => ?_
  simp only [fmtB, place]; interval_cases i <;> simp

@[simp] theorem zero_fmtA : (fmtA op a).extractLsb' 1 23 = 0#23 := by
  refine BitVec.eq_of_getLsbD_eq fun i hi => ?_
  simp only [fmtA, place]; interval_cases i <;> simp

@[simp] theorem zero_fmtDRV : (fmtDRV op dev reg v).getLsbD 23 = false := by
  simp [fmtDRV, place]

@[simp] theorem vField_fmtB : vField (fmtB op b) = b := by
  refine BitVec.eq_of_getLsbD_eq fun i hi => ?_
  simp only [fmtB, vField, place]; interval_cases i <;> simp

@[simp] theorem aField_fmtA : aField (fmtA op a) = a := by
  refine BitVec.eq_of_getLsbD_eq fun i hi => ?_
  simp only [fmtA, aField, place]; interval_cases i; simp

@[simp] theorem devField_fmtDRV : devField (fmtDRV op dev reg v) = dev := by
  refine BitVec.eq_of_getLsbD_eq fun i hi => ?_
  simp only [fmtDRV, devField, place]; interval_cases i <;> simp

@[simp] theorem yField_fmtDRV : yField (fmtDRV op dev reg v) = reg := by
  refine BitVec.eq_of_getLsbD_eq fun i hi => ?_
  simp only [fmtDRV, yField, place]; interval_cases i <;> simp

@[simp] theorem vField_fmtDRV : vField (fmtDRV op dev reg v) = v := by
  refine BitVec.eq_of_getLsbD_eq fun i hi => ?_
  simp only [fmtDRV, vField, place]; interval_cases i <;> simp

@[simp] theorem xField_fmtXYV : xField (fmtXYV op x y v) = x := by
  refine BitVec.eq_of_getLsbD_eq fun i hi => ?_
  simp only [fmtXYV, xField, place]; interval_cases i <;> simp

@[simp] theorem yField_fmtXYV : yField (fmtXYV op x y v) = y := by
  refine BitVec.eq_of_getLsbD_eq fun i hi => ?_
  simp only [fmtXYV, yField, place]; interval_cases i <;> simp

@[simp] theorem vField_fmtXYV : vField (fmtXYV op x y v) = v := by
  refine BitVec.eq_of_getLsbD_eq fun i hi => ?_
  simp only [fmtXYV, vField, place]; interval_cases i <;> simp

/-- A payload word of format `C` is legal. -/
@[simp] theorem payloadLegal_fmtB : payloadLegal (fmtB 0 b) = true := by
  rw [payloadLegal_iff]
  refine BitVec.eq_of_getLsbD_eq fun i hi => ?_
  simp only [fmtB, place]; interval_cases i <;> simp

end Fields

/-- Every word is its four byte fields. -/
theorem word_eq_fmtXYV (w : Word) : fmtXYV (opField w) (xField w) (yField w) (vField w) = w := by
  refine BitVec.eq_of_getLsbD_eq fun i hi => ?_
  simp only [fmtXYV, opField, xField, yField, vField, place]; interval_cases i <;> simp

end Sys2Proof
end

