-- ==== Sys2Proof/Laws/State.lean ====
section
/-! SUPPORT. One lemma per field per update of the state, each true by `rfl`, so that no later proof unfolds a record
update; and the reset event field by field. -/

namespace Sys2Proof.Machine
/-! ### Fields after `bus_emit` -/
@[simp] theorem State.emit_on (s : State) (e : BusEvent) : (s.emit e).on = s.on := rfl
@[simp] theorem State.emit_brg (s : State) (e : BusEvent) : (s.emit e).brg = s.brg := rfl
@[simp] theorem State.emit_sen (s : State) (e : BusEvent) : (s.emit e).sen = s.sen := rfl
@[simp] theorem State.emit_rsen (s : State) (e : BusEvent) : (s.emit e).rsen = s.rsen := rfl
@[simp] theorem State.emit_pen (s : State) (e : BusEvent) : (s.emit e).pen = s.pen := rfl
@[simp] theorem State.emit_rcen (s : State) (e : BusEvent) : (s.emit e).rcen = s.rcen := rfl
@[simp] theorem State.emit_acken (s : State) (e : BusEvent) : (s.emit e).acken = s.acken := rfl
@[simp] theorem State.emit_ackdt (s : State) (e : BusEvent) : (s.emit e).ackdt = s.ackdt := rfl
@[simp] theorem State.emit_trstat (s : State) (e : BusEvent) : (s.emit e).trstat = s.trstat := rfl
@[simp] theorem State.emit_ackstat (s : State) (e : BusEvent) : (s.emit e).ackstat = s.ackstat := rfl
@[simp] theorem State.emit_rbf (s : State) (e : BusEvent) : (s.emit e).rbf = s.rbf := rfl
@[simp] theorem State.emit_trn (s : State) (e : BusEvent) : (s.emit e).trn = s.trn := rfl
@[simp] theorem State.emit_rcv (s : State) (e : BusEvent) : (s.emit e).rcv = s.rcv := rfl
@[simp] theorem State.emit_ts (s : State) (e : BusEvent) : (s.emit e).ts = s.ts := rfl
@[simp] theorem State.emit_busy (s : State) (e : BusEvent) : (s.emit e).busy = s.busy := rfl
@[simp] theorem State.emit_uq (s : State) (e : BusEvent) : (s.emit e).uq = s.uq := rfl
@[simp] theorem State.emit_upc (s : State) (e : BusEvent) : (s.emit e).upc = s.upc := rfl
@[simp] theorem State.emit_wst (s : State) (e : BusEvent) : (s.emit e).wst = s.wst := rfl
@[simp] theorem State.emit_t0 (s : State) (e : BusEvent) : (s.emit e).t0 = s.t0 := rfl
@[simp] theorem State.emit_st (s : State) (e : BusEvent) : (s.emit e).st = s.st := rfl
@[simp] theorem State.emit_latched (s : State) (e : BusEvent) : (s.emit e).latched = s.latched := rfl
@[simp] theorem State.emit_hung (s : State) (e : BusEvent) : (s.emit e).hung = s.hung := rfl
@[simp] theorem State.emit_fault (s : State) (e : BusEvent) : (s.emit e).fault = s.fault := rfl
@[simp] theorem State.emit_fb (s : State) (e : BusEvent) : (s.emit e).fb = s.fb := rfl
@[simp] theorem State.emit_fbEpoch (s : State) (e : BusEvent) : (s.emit e).fbEpoch = s.fbEpoch := rfl
@[simp] theorem State.emit_bus (s : State) (e : BusEvent) : (s.emit e).bus = s.bus ++ [e] := rfl
@[simp] theorem State.emit_rsp (s : State) (e : BusEvent) : (s.emit e).rsp = s.rsp := rfl
@[simp] theorem State.emit_cpl (s : State) (e : BusEvent) : (s.emit e).cpl = s.cpl := rfl
@[simp] theorem State.emit_tick (s : State) (e : BusEvent) : (s.emit e).tick = s.tick := rfl
@[simp] theorem State.emit_params (s : State) (e : BusEvent) : (s.emit e).params = s.params := rfl
@[simp] theorem State.emit_hostQ (s : State) (e : BusEvent) : (s.emit e).hostQ = s.hostQ := rfl
@[simp] theorem State.emit_envQ (s : State) (e : BusEvent) : (s.emit e).envQ = s.envQ := rfl
@[simp] theorem State.emit_sched (s : State) (e : BusEvent) : (s.emit e).sched = s.sched := rfl
@[simp] theorem State.emit_reads (s : State) (e : BusEvent) : (s.emit e).reads = s.reads := rfl

/-! ### Fields after `RSP.push` -/
@[simp] theorem State.pushRsp_on (s : State) (b : Byte) : (s.pushRsp b).on = s.on := rfl
@[simp] theorem State.pushRsp_brg (s : State) (b : Byte) : (s.pushRsp b).brg = s.brg := rfl
@[simp] theorem State.pushRsp_sen (s : State) (b : Byte) : (s.pushRsp b).sen = s.sen := rfl
@[simp] theorem State.pushRsp_rsen (s : State) (b : Byte) : (s.pushRsp b).rsen = s.rsen := rfl
@[simp] theorem State.pushRsp_pen (s : State) (b : Byte) : (s.pushRsp b).pen = s.pen := rfl
@[simp] theorem State.pushRsp_rcen (s : State) (b : Byte) : (s.pushRsp b).rcen = s.rcen := rfl
@[simp] theorem State.pushRsp_acken (s : State) (b : Byte) : (s.pushRsp b).acken = s.acken := rfl
@[simp] theorem State.pushRsp_ackdt (s : State) (b : Byte) : (s.pushRsp b).ackdt = s.ackdt := rfl
@[simp] theorem State.pushRsp_trstat (s : State) (b : Byte) : (s.pushRsp b).trstat = s.trstat := rfl
@[simp] theorem State.pushRsp_ackstat (s : State) (b : Byte) : (s.pushRsp b).ackstat = s.ackstat := rfl
@[simp] theorem State.pushRsp_rbf (s : State) (b : Byte) : (s.pushRsp b).rbf = s.rbf := rfl
@[simp] theorem State.pushRsp_trn (s : State) (b : Byte) : (s.pushRsp b).trn = s.trn := rfl
@[simp] theorem State.pushRsp_rcv (s : State) (b : Byte) : (s.pushRsp b).rcv = s.rcv := rfl
@[simp] theorem State.pushRsp_ts (s : State) (b : Byte) : (s.pushRsp b).ts = s.ts := rfl
@[simp] theorem State.pushRsp_busy (s : State) (b : Byte) : (s.pushRsp b).busy = s.busy := rfl
@[simp] theorem State.pushRsp_uq (s : State) (b : Byte) : (s.pushRsp b).uq = s.uq := rfl
@[simp] theorem State.pushRsp_upc (s : State) (b : Byte) : (s.pushRsp b).upc = s.upc := rfl
@[simp] theorem State.pushRsp_wst (s : State) (b : Byte) : (s.pushRsp b).wst = s.wst := rfl
@[simp] theorem State.pushRsp_t0 (s : State) (b : Byte) : (s.pushRsp b).t0 = s.t0 := rfl
@[simp] theorem State.pushRsp_st (s : State) (b : Byte) : (s.pushRsp b).st = s.st := rfl
@[simp] theorem State.pushRsp_latched (s : State) (b : Byte) : (s.pushRsp b).latched = s.latched := rfl
@[simp] theorem State.pushRsp_hung (s : State) (b : Byte) : (s.pushRsp b).hung = s.hung := rfl
@[simp] theorem State.pushRsp_fault (s : State) (b : Byte) : (s.pushRsp b).fault = s.fault := rfl
@[simp] theorem State.pushRsp_fb (s : State) (b : Byte) : (s.pushRsp b).fb = s.fb := rfl
@[simp] theorem State.pushRsp_fbEpoch (s : State) (b : Byte) : (s.pushRsp b).fbEpoch = s.fbEpoch := rfl
@[simp] theorem State.pushRsp_bus (s : State) (b : Byte) : (s.pushRsp b).bus = s.bus := rfl
@[simp] theorem State.pushRsp_rsp (s : State) (b : Byte) : (s.pushRsp b).rsp = s.rsp ++ [b] := rfl
@[simp] theorem State.pushRsp_cpl (s : State) (b : Byte) : (s.pushRsp b).cpl = s.cpl := rfl
@[simp] theorem State.pushRsp_tick (s : State) (b : Byte) : (s.pushRsp b).tick = s.tick := rfl
@[simp] theorem State.pushRsp_params (s : State) (b : Byte) : (s.pushRsp b).params = s.params := rfl
@[simp] theorem State.pushRsp_hostQ (s : State) (b : Byte) : (s.pushRsp b).hostQ = s.hostQ := rfl
@[simp] theorem State.pushRsp_envQ (s : State) (b : Byte) : (s.pushRsp b).envQ = s.envQ := rfl
@[simp] theorem State.pushRsp_sched (s : State) (b : Byte) : (s.pushRsp b).sched = s.sched := rfl
@[simp] theorem State.pushRsp_reads (s : State) (b : Byte) : (s.pushRsp b).reads = s.reads := rfl

/-! ### Fields after `CPL.push` -/
@[simp] theorem State.pushCpl_on (s : State) (c : Status) : (s.pushCpl c).on = s.on := rfl
@[simp] theorem State.pushCpl_brg (s : State) (c : Status) : (s.pushCpl c).brg = s.brg := rfl
@[simp] theorem State.pushCpl_sen (s : State) (c : Status) : (s.pushCpl c).sen = s.sen := rfl
@[simp] theorem State.pushCpl_rsen (s : State) (c : Status) : (s.pushCpl c).rsen = s.rsen := rfl
@[simp] theorem State.pushCpl_pen (s : State) (c : Status) : (s.pushCpl c).pen = s.pen := rfl
@[simp] theorem State.pushCpl_rcen (s : State) (c : Status) : (s.pushCpl c).rcen = s.rcen := rfl
@[simp] theorem State.pushCpl_acken (s : State) (c : Status) : (s.pushCpl c).acken = s.acken := rfl
@[simp] theorem State.pushCpl_ackdt (s : State) (c : Status) : (s.pushCpl c).ackdt = s.ackdt := rfl
@[simp] theorem State.pushCpl_trstat (s : State) (c : Status) : (s.pushCpl c).trstat = s.trstat := rfl
@[simp] theorem State.pushCpl_ackstat (s : State) (c : Status) : (s.pushCpl c).ackstat = s.ackstat := rfl
@[simp] theorem State.pushCpl_rbf (s : State) (c : Status) : (s.pushCpl c).rbf = s.rbf := rfl
@[simp] theorem State.pushCpl_trn (s : State) (c : Status) : (s.pushCpl c).trn = s.trn := rfl
@[simp] theorem State.pushCpl_rcv (s : State) (c : Status) : (s.pushCpl c).rcv = s.rcv := rfl
@[simp] theorem State.pushCpl_ts (s : State) (c : Status) : (s.pushCpl c).ts = s.ts := rfl
@[simp] theorem State.pushCpl_busy (s : State) (c : Status) : (s.pushCpl c).busy = s.busy := rfl
@[simp] theorem State.pushCpl_uq (s : State) (c : Status) : (s.pushCpl c).uq = s.uq := rfl
@[simp] theorem State.pushCpl_upc (s : State) (c : Status) : (s.pushCpl c).upc = s.upc := rfl
@[simp] theorem State.pushCpl_wst (s : State) (c : Status) : (s.pushCpl c).wst = s.wst := rfl
@[simp] theorem State.pushCpl_t0 (s : State) (c : Status) : (s.pushCpl c).t0 = s.t0 := rfl
@[simp] theorem State.pushCpl_st (s : State) (c : Status) : (s.pushCpl c).st = s.st := rfl
@[simp] theorem State.pushCpl_latched (s : State) (c : Status) : (s.pushCpl c).latched = s.latched := rfl
@[simp] theorem State.pushCpl_hung (s : State) (c : Status) : (s.pushCpl c).hung = s.hung := rfl
@[simp] theorem State.pushCpl_fault (s : State) (c : Status) : (s.pushCpl c).fault = s.fault := rfl
@[simp] theorem State.pushCpl_fb (s : State) (c : Status) : (s.pushCpl c).fb = s.fb := rfl
@[simp] theorem State.pushCpl_fbEpoch (s : State) (c : Status) : (s.pushCpl c).fbEpoch = s.fbEpoch := rfl
@[simp] theorem State.pushCpl_bus (s : State) (c : Status) : (s.pushCpl c).bus = s.bus := rfl
@[simp] theorem State.pushCpl_rsp (s : State) (c : Status) : (s.pushCpl c).rsp = s.rsp := rfl
@[simp] theorem State.pushCpl_cpl (s : State) (c : Status) : (s.pushCpl c).cpl = s.cpl ++ [c] := rfl
@[simp] theorem State.pushCpl_tick (s : State) (c : Status) : (s.pushCpl c).tick = s.tick := rfl
@[simp] theorem State.pushCpl_params (s : State) (c : Status) : (s.pushCpl c).params = s.params := rfl
@[simp] theorem State.pushCpl_hostQ (s : State) (c : Status) : (s.pushCpl c).hostQ = s.hostQ := rfl
@[simp] theorem State.pushCpl_envQ (s : State) (c : Status) : (s.pushCpl c).envQ = s.envQ := rfl
@[simp] theorem State.pushCpl_sched (s : State) (c : Status) : (s.pushCpl c).sched = s.sched := rfl
@[simp] theorem State.pushCpl_reads (s : State) (c : Status) : (s.pushCpl c).reads = s.reads := rfl

/-! ### Fields after entering a wait -/
@[simp] theorem State.arm_on (s : State) (m : MicroOp) : (s.arm m).on = s.on := rfl
@[simp] theorem State.arm_brg (s : State) (m : MicroOp) : (s.arm m).brg = s.brg := rfl
@[simp] theorem State.arm_sen (s : State) (m : MicroOp) : (s.arm m).sen = s.sen := rfl
@[simp] theorem State.arm_rsen (s : State) (m : MicroOp) : (s.arm m).rsen = s.rsen := rfl
@[simp] theorem State.arm_pen (s : State) (m : MicroOp) : (s.arm m).pen = s.pen := rfl
@[simp] theorem State.arm_rcen (s : State) (m : MicroOp) : (s.arm m).rcen = s.rcen := rfl
@[simp] theorem State.arm_acken (s : State) (m : MicroOp) : (s.arm m).acken = s.acken := rfl
@[simp] theorem State.arm_ackdt (s : State) (m : MicroOp) : (s.arm m).ackdt = s.ackdt := rfl
@[simp] theorem State.arm_trstat (s : State) (m : MicroOp) : (s.arm m).trstat = s.trstat := rfl
@[simp] theorem State.arm_ackstat (s : State) (m : MicroOp) : (s.arm m).ackstat = s.ackstat := rfl
@[simp] theorem State.arm_rbf (s : State) (m : MicroOp) : (s.arm m).rbf = s.rbf := rfl
@[simp] theorem State.arm_trn (s : State) (m : MicroOp) : (s.arm m).trn = s.trn := rfl
@[simp] theorem State.arm_rcv (s : State) (m : MicroOp) : (s.arm m).rcv = s.rcv := rfl
@[simp] theorem State.arm_ts (s : State) (m : MicroOp) : (s.arm m).ts = s.ts := rfl
@[simp] theorem State.arm_busy (s : State) (m : MicroOp) : (s.arm m).busy = s.busy := rfl
@[simp] theorem State.arm_uq (s : State) (m : MicroOp) : (s.arm m).uq = s.uq := rfl
@[simp] theorem State.arm_upc (s : State) (m : MicroOp) : (s.arm m).upc = s.upc := rfl
@[simp] theorem State.arm_wst (s : State) (m : MicroOp) : (s.arm m).wst = .waiting m := rfl
@[simp] theorem State.arm_t0 (s : State) (m : MicroOp) : (s.arm m).t0 = s.tick := rfl
@[simp] theorem State.arm_st (s : State) (m : MicroOp) : (s.arm m).st = s.st := rfl
@[simp] theorem State.arm_latched (s : State) (m : MicroOp) : (s.arm m).latched = s.latched := rfl
@[simp] theorem State.arm_hung (s : State) (m : MicroOp) : (s.arm m).hung = s.hung := rfl
@[simp] theorem State.arm_fault (s : State) (m : MicroOp) : (s.arm m).fault = s.fault := rfl
@[simp] theorem State.arm_fb (s : State) (m : MicroOp) : (s.arm m).fb = s.fb := rfl
@[simp] theorem State.arm_fbEpoch (s : State) (m : MicroOp) : (s.arm m).fbEpoch = s.fbEpoch := rfl
@[simp] theorem State.arm_bus (s : State) (m : MicroOp) : (s.arm m).bus = s.bus := rfl
@[simp] theorem State.arm_rsp (s : State) (m : MicroOp) : (s.arm m).rsp = s.rsp := rfl
@[simp] theorem State.arm_cpl (s : State) (m : MicroOp) : (s.arm m).cpl = s.cpl := rfl
@[simp] theorem State.arm_tick (s : State) (m : MicroOp) : (s.arm m).tick = s.tick := rfl
@[simp] theorem State.arm_params (s : State) (m : MicroOp) : (s.arm m).params = s.params := rfl
@[simp] theorem State.arm_hostQ (s : State) (m : MicroOp) : (s.arm m).hostQ = s.hostQ := rfl
@[simp] theorem State.arm_envQ (s : State) (m : MicroOp) : (s.arm m).envQ = s.envQ := rfl
@[simp] theorem State.arm_sched (s : State) (m : MicroOp) : (s.arm m).sched = s.sched := rfl
@[simp] theorem State.arm_reads (s : State) (m : MicroOp) : (s.arm m).reads = s.reads := rfl

/-! ### Fields after completing a micro-operation -/
@[simp] theorem State.finish_on (s : State) : (s.finish).on = s.on := rfl
@[simp] theorem State.finish_brg (s : State) : (s.finish).brg = s.brg := rfl
@[simp] theorem State.finish_sen (s : State) : (s.finish).sen = s.sen := rfl
@[simp] theorem State.finish_rsen (s : State) : (s.finish).rsen = s.rsen := rfl
@[simp] theorem State.finish_pen (s : State) : (s.finish).pen = s.pen := rfl
@[simp] theorem State.finish_rcen (s : State) : (s.finish).rcen = s.rcen := rfl
@[simp] theorem State.finish_acken (s : State) : (s.finish).acken = s.acken := rfl
@[simp] theorem State.finish_ackdt (s : State) : (s.finish).ackdt = s.ackdt := rfl
@[simp] theorem State.finish_trstat (s : State) : (s.finish).trstat = s.trstat := rfl
@[simp] theorem State.finish_ackstat (s : State) : (s.finish).ackstat = s.ackstat := rfl
@[simp] theorem State.finish_rbf (s : State) : (s.finish).rbf = s.rbf := rfl
@[simp] theorem State.finish_trn (s : State) : (s.finish).trn = s.trn := rfl
@[simp] theorem State.finish_rcv (s : State) : (s.finish).rcv = s.rcv := rfl
@[simp] theorem State.finish_ts (s : State) : (s.finish).ts = s.ts := rfl
@[simp] theorem State.finish_busy (s : State) : (s.finish).busy = s.busy := rfl
@[simp] theorem State.finish_uq (s : State) : (s.finish).uq = s.uq.tail := rfl
@[simp] theorem State.finish_upc (s : State) : (s.finish).upc = s.upc + 1 := rfl
@[simp] theorem State.finish_wst (s : State) : (s.finish).wst = .ready := rfl
@[simp] theorem State.finish_t0 (s : State) : (s.finish).t0 = s.t0 := rfl
@[simp] theorem State.finish_st (s : State) : (s.finish).st = s.st := rfl
@[simp] theorem State.finish_latched (s : State) : (s.finish).latched = s.latched := rfl
@[simp] theorem State.finish_hung (s : State) : (s.finish).hung = s.hung := rfl
@[simp] theorem State.finish_fault (s : State) : (s.finish).fault = s.fault := rfl
@[simp] theorem State.finish_fb (s : State) : (s.finish).fb = s.fb := rfl
@[simp] theorem State.finish_fbEpoch (s : State) : (s.finish).fbEpoch = s.fbEpoch := rfl
@[simp] theorem State.finish_bus (s : State) : (s.finish).bus = s.bus := rfl
@[simp] theorem State.finish_rsp (s : State) : (s.finish).rsp = s.rsp := rfl
@[simp] theorem State.finish_cpl (s : State) : (s.finish).cpl = s.cpl := rfl
@[simp] theorem State.finish_tick (s : State) : (s.finish).tick = s.tick := rfl
@[simp] theorem State.finish_params (s : State) : (s.finish).params = s.params := rfl
@[simp] theorem State.finish_hostQ (s : State) : (s.finish).hostQ = s.hostQ := rfl
@[simp] theorem State.finish_envQ (s : State) : (s.finish).envQ = s.envQ := rfl
@[simp] theorem State.finish_sched (s : State) : (s.finish).sched = s.sched := rfl
@[simp] theorem State.finish_reads (s : State) : (s.finish).reads = s.reads := rfl

/-! ### Fields after loading a command -/
@[simp] theorem State.load_on (s : State) (q : List MicroOp) : (s.load q).on = s.on := rfl
@[simp] theorem State.load_brg (s : State) (q : List MicroOp) : (s.load q).brg = s.brg := rfl
@[simp] theorem State.load_sen (s : State) (q : List MicroOp) : (s.load q).sen = s.sen := rfl
@[simp] theorem State.load_rsen (s : State) (q : List MicroOp) : (s.load q).rsen = s.rsen := rfl
@[simp] theorem State.load_pen (s : State) (q : List MicroOp) : (s.load q).pen = s.pen := rfl
@[simp] theorem State.load_rcen (s : State) (q : List MicroOp) : (s.load q).rcen = s.rcen := rfl
@[simp] theorem State.load_acken (s : State) (q : List MicroOp) : (s.load q).acken = s.acken := rfl
@[simp] theorem State.load_ackdt (s : State) (q : List MicroOp) : (s.load q).ackdt = s.ackdt := rfl
@[simp] theorem State.load_trstat (s : State) (q : List MicroOp) : (s.load q).trstat = s.trstat := rfl
@[simp] theorem State.load_ackstat (s : State) (q : List MicroOp) : (s.load q).ackstat = s.ackstat := rfl
@[simp] theorem State.load_rbf (s : State) (q : List MicroOp) : (s.load q).rbf = s.rbf := rfl
@[simp] theorem State.load_trn (s : State) (q : List MicroOp) : (s.load q).trn = s.trn := rfl
@[simp] theorem State.load_rcv (s : State) (q : List MicroOp) : (s.load q).rcv = s.rcv := rfl
@[simp] theorem State.load_ts (s : State) (q : List MicroOp) : (s.load q).ts = s.ts := rfl
@[simp] theorem State.load_busy (s : State) (q : List MicroOp) : (s.load q).busy = true := rfl
@[simp] theorem State.load_uq (s : State) (q : List MicroOp) : (s.load q).uq = q := rfl
@[simp] theorem State.load_upc (s : State) (q : List MicroOp) : (s.load q).upc = 0 := rfl
@[simp] theorem State.load_wst (s : State) (q : List MicroOp) : (s.load q).wst = s.wst := rfl
@[simp] theorem State.load_t0 (s : State) (q : List MicroOp) : (s.load q).t0 = s.t0 := rfl
@[simp] theorem State.load_st (s : State) (q : List MicroOp) : (s.load q).st = .ok := rfl
@[simp] theorem State.load_latched (s : State) (q : List MicroOp) : (s.load q).latched = s.latched := rfl
@[simp] theorem State.load_hung (s : State) (q : List MicroOp) : (s.load q).hung = s.hung := rfl
@[simp] theorem State.load_fault (s : State) (q : List MicroOp) : (s.load q).fault = s.fault := rfl
@[simp] theorem State.load_fb (s : State) (q : List MicroOp) : (s.load q).fb = s.fb := rfl
@[simp] theorem State.load_fbEpoch (s : State) (q : List MicroOp) : (s.load q).fbEpoch = s.fbEpoch := rfl
@[simp] theorem State.load_bus (s : State) (q : List MicroOp) : (s.load q).bus = s.bus := rfl
@[simp] theorem State.load_rsp (s : State) (q : List MicroOp) : (s.load q).rsp = s.rsp := rfl
@[simp] theorem State.load_cpl (s : State) (q : List MicroOp) : (s.load q).cpl = s.cpl := rfl
@[simp] theorem State.load_tick (s : State) (q : List MicroOp) : (s.load q).tick = s.tick := rfl
@[simp] theorem State.load_params (s : State) (q : List MicroOp) : (s.load q).params = s.params := rfl
@[simp] theorem State.load_hostQ (s : State) (q : List MicroOp) : (s.load q).hostQ = s.hostQ := rfl
@[simp] theorem State.load_envQ (s : State) (q : List MicroOp) : (s.load q).envQ = s.envQ := rfl
@[simp] theorem State.load_sched (s : State) (q : List MicroOp) : (s.load q).sched = s.sched := rfl
@[simp] theorem State.load_reads (s : State) (q : List MicroOp) : (s.load q).reads = s.reads := rfl

/-! ### Fields after fault entry -/
@[simp] theorem State.raiseFault_on (s : State) (c : Cause) : (s.raiseFault c).on = s.on := rfl
@[simp] theorem State.raiseFault_brg (s : State) (c : Cause) : (s.raiseFault c).brg = s.brg := rfl
@[simp] theorem State.raiseFault_sen (s : State) (c : Cause) : (s.raiseFault c).sen = s.sen := rfl
@[simp] theorem State.raiseFault_rsen (s : State) (c : Cause) : (s.raiseFault c).rsen = s.rsen := rfl
@[simp] theorem State.raiseFault_pen (s : State) (c : Cause) : (s.raiseFault c).pen = s.pen := rfl
@[simp] theorem State.raiseFault_rcen (s : State) (c : Cause) : (s.raiseFault c).rcen = s.rcen := rfl
@[simp] theorem State.raiseFault_acken (s : State) (c : Cause) : (s.raiseFault c).acken = s.acken := rfl
@[simp] theorem State.raiseFault_ackdt (s : State) (c : Cause) : (s.raiseFault c).ackdt = s.ackdt := rfl
@[simp] theorem State.raiseFault_trstat (s : State) (c : Cause) : (s.raiseFault c).trstat = s.trstat := rfl
@[simp] theorem State.raiseFault_ackstat (s : State) (c : Cause) : (s.raiseFault c).ackstat = s.ackstat := rfl
@[simp] theorem State.raiseFault_rbf (s : State) (c : Cause) : (s.raiseFault c).rbf = s.rbf := rfl
@[simp] theorem State.raiseFault_trn (s : State) (c : Cause) : (s.raiseFault c).trn = s.trn := rfl
@[simp] theorem State.raiseFault_rcv (s : State) (c : Cause) : (s.raiseFault c).rcv = s.rcv := rfl
@[simp] theorem State.raiseFault_ts (s : State) (c : Cause) : (s.raiseFault c).ts = s.ts := rfl
@[simp] theorem State.raiseFault_busy (s : State) (c : Cause) : (s.raiseFault c).busy = true := rfl
@[simp] theorem State.raiseFault_uq (s : State) (c : Cause) : (s.raiseFault c).uq = s.uq := rfl
@[simp] theorem State.raiseFault_upc (s : State) (c : Cause) : (s.raiseFault c).upc = s.upc := rfl
@[simp] theorem State.raiseFault_wst (s : State) (c : Cause) : (s.raiseFault c).wst = s.wst := rfl
@[simp] theorem State.raiseFault_t0 (s : State) (c : Cause) : (s.raiseFault c).t0 = s.t0 := rfl
@[simp] theorem State.raiseFault_st (s : State) (c : Cause) : (s.raiseFault c).st = s.st := rfl
@[simp] theorem State.raiseFault_latched (s : State) (c : Cause) : (s.raiseFault c).latched = s.latched := rfl
@[simp] theorem State.raiseFault_hung (s : State) (c : Cause) : (s.raiseFault c).hung = s.hung := rfl
@[simp] theorem State.raiseFault_fault (s : State) (c : Cause) : (s.raiseFault c).fault = if s.fault = .noFault then c else s.fault := rfl
@[simp] theorem State.raiseFault_fb (s : State) (c : Cause) : (s.raiseFault c).fb = s.fb := rfl
@[simp] theorem State.raiseFault_fbEpoch (s : State) (c : Cause) : (s.raiseFault c).fbEpoch = s.fbEpoch := rfl
@[simp] theorem State.raiseFault_bus (s : State) (c : Cause) : (s.raiseFault c).bus = s.bus := rfl
@[simp] theorem State.raiseFault_rsp (s : State) (c : Cause) : (s.raiseFault c).rsp = s.rsp := rfl
@[simp] theorem State.raiseFault_cpl (s : State) (c : Cause) : (s.raiseFault c).cpl = s.cpl := rfl
@[simp] theorem State.raiseFault_tick (s : State) (c : Cause) : (s.raiseFault c).tick = s.tick := rfl
@[simp] theorem State.raiseFault_params (s : State) (c : Cause) : (s.raiseFault c).params = s.params := rfl
@[simp] theorem State.raiseFault_hostQ (s : State) (c : Cause) : (s.raiseFault c).hostQ = s.hostQ := rfl
@[simp] theorem State.raiseFault_envQ (s : State) (c : Cause) : (s.raiseFault c).envQ = s.envQ := rfl
@[simp] theorem State.raiseFault_sched (s : State) (c : Cause) : (s.raiseFault c).sched = s.sched := rfl
@[simp] theorem State.raiseFault_reads (s : State) (c : Cause) : (s.raiseFault c).reads = s.reads := rfl

/-! ### Fields after the hang -/
@[simp] theorem State.hang_on (s : State) : (s.hang).on = s.on := rfl
@[simp] theorem State.hang_brg (s : State) : (s.hang).brg = s.brg := rfl
@[simp] theorem State.hang_sen (s : State) : (s.hang).sen = s.sen := rfl
@[simp] theorem State.hang_rsen (s : State) : (s.hang).rsen = s.rsen := rfl
@[simp] theorem State.hang_pen (s : State) : (s.hang).pen = s.pen := rfl
@[simp] theorem State.hang_rcen (s : State) : (s.hang).rcen = s.rcen := rfl
@[simp] theorem State.hang_acken (s : State) : (s.hang).acken = s.acken := rfl
@[simp] theorem State.hang_ackdt (s : State) : (s.hang).ackdt = s.ackdt := rfl
@[simp] theorem State.hang_trstat (s : State) : (s.hang).trstat = s.trstat := rfl
@[simp] theorem State.hang_ackstat (s : State) : (s.hang).ackstat = s.ackstat := rfl
@[simp] theorem State.hang_rbf (s : State) : (s.hang).rbf = s.rbf := rfl
@[simp] theorem State.hang_trn (s : State) : (s.hang).trn = s.trn := rfl
@[simp] theorem State.hang_rcv (s : State) : (s.hang).rcv = s.rcv := rfl
@[simp] theorem State.hang_ts (s : State) : (s.hang).ts = s.ts := rfl
@[simp] theorem State.hang_busy (s : State) : (s.hang).busy = s.busy := rfl
@[simp] theorem State.hang_uq (s : State) : (s.hang).uq = s.uq := rfl
@[simp] theorem State.hang_upc (s : State) : (s.hang).upc = s.upc := rfl
@[simp] theorem State.hang_wst (s : State) : (s.hang).wst = .ready := rfl
@[simp] theorem State.hang_t0 (s : State) : (s.hang).t0 = s.t0 := rfl
@[simp] theorem State.hang_st (s : State) : (s.hang).st = s.st := rfl
@[simp] theorem State.hang_latched (s : State) : (s.hang).latched = s.latched := rfl
@[simp] theorem State.hang_hung (s : State) : (s.hang).hung = true := rfl
@[simp] theorem State.hang_fault (s : State) : (s.hang).fault = s.fault := rfl
@[simp] theorem State.hang_fb (s : State) : (s.hang).fb = s.fb := rfl
@[simp] theorem State.hang_fbEpoch (s : State) : (s.hang).fbEpoch = s.fbEpoch := rfl
@[simp] theorem State.hang_bus (s : State) : (s.hang).bus = s.bus := rfl
@[simp] theorem State.hang_rsp (s : State) : (s.hang).rsp = s.rsp := rfl
@[simp] theorem State.hang_cpl (s : State) : (s.hang).cpl = s.cpl := rfl
@[simp] theorem State.hang_tick (s : State) : (s.hang).tick = s.tick := rfl
@[simp] theorem State.hang_params (s : State) : (s.hang).params = s.params := rfl
@[simp] theorem State.hang_hostQ (s : State) : (s.hang).hostQ = s.hostQ := rfl
@[simp] theorem State.hang_envQ (s : State) : (s.hang).envQ = s.envQ := rfl
@[simp] theorem State.hang_sched (s : State) : (s.hang).sched = s.sched := rfl
@[simp] theorem State.hang_reads (s : State) : (s.hang).reads = s.reads := rfl

/-! ### Fields after a retired command -/
@[simp] theorem State.retired_on (s : State) (n : Nat) (c : Status) : (s.retired n c).on = s.on := rfl
@[simp] theorem State.retired_brg (s : State) (n : Nat) (c : Status) : (s.retired n c).brg = s.brg := rfl
@[simp] theorem State.retired_sen (s : State) (n : Nat) (c : Status) : (s.retired n c).sen = s.sen := rfl
@[simp] theorem State.retired_rsen (s : State) (n : Nat) (c : Status) : (s.retired n c).rsen = s.rsen := rfl
@[simp] theorem State.retired_pen (s : State) (n : Nat) (c : Status) : (s.retired n c).pen = s.pen := rfl
@[simp] theorem State.retired_rcen (s : State) (n : Nat) (c : Status) : (s.retired n c).rcen = s.rcen := rfl
@[simp] theorem State.retired_acken (s : State) (n : Nat) (c : Status) : (s.retired n c).acken = s.acken := rfl
@[simp] theorem State.retired_ackdt (s : State) (n : Nat) (c : Status) : (s.retired n c).ackdt = s.ackdt := rfl
@[simp] theorem State.retired_trstat (s : State) (n : Nat) (c : Status) : (s.retired n c).trstat = s.trstat := rfl
@[simp] theorem State.retired_ackstat (s : State) (n : Nat) (c : Status) : (s.retired n c).ackstat = s.ackstat := rfl
@[simp] theorem State.retired_rbf (s : State) (n : Nat) (c : Status) : (s.retired n c).rbf = s.rbf := rfl
@[simp] theorem State.retired_trn (s : State) (n : Nat) (c : Status) : (s.retired n c).trn = s.trn := rfl
@[simp] theorem State.retired_rcv (s : State) (n : Nat) (c : Status) : (s.retired n c).rcv = s.rcv := rfl
@[simp] theorem State.retired_ts (s : State) (n : Nat) (c : Status) : (s.retired n c).ts = s.ts := rfl
@[simp] theorem State.retired_busy (s : State) (n : Nat) (c : Status) : (s.retired n c).busy = false := rfl
@[simp] theorem State.retired_uq (s : State) (n : Nat) (c : Status) : (s.retired n c).uq = [] := rfl
@[simp] theorem State.retired_upc (s : State) (n : Nat) (c : Status) : (s.retired n c).upc = BitVec.ofNat 16 n := rfl
@[simp] theorem State.retired_wst (s : State) (n : Nat) (c : Status) : (s.retired n c).wst = .ready := rfl
@[simp] theorem State.retired_t0 (s : State) (n : Nat) (c : Status) : (s.retired n c).t0 = s.t0 := rfl
@[simp] theorem State.retired_st (s : State) (n : Nat) (c : Status) : (s.retired n c).st = c := rfl
@[simp] theorem State.retired_latched (s : State) (n : Nat) (c : Status) : (s.retired n c).latched = s.latched := rfl
@[simp] theorem State.retired_hung (s : State) (n : Nat) (c : Status) : (s.retired n c).hung = s.hung := rfl
@[simp] theorem State.retired_fault (s : State) (n : Nat) (c : Status) : (s.retired n c).fault = s.fault := rfl
@[simp] theorem State.retired_fb (s : State) (n : Nat) (c : Status) : (s.retired n c).fb = s.fb := rfl
@[simp] theorem State.retired_fbEpoch (s : State) (n : Nat) (c : Status) : (s.retired n c).fbEpoch = s.fbEpoch := rfl
@[simp] theorem State.retired_bus (s : State) (n : Nat) (c : Status) : (s.retired n c).bus = s.bus := rfl
@[simp] theorem State.retired_rsp (s : State) (n : Nat) (c : Status) : (s.retired n c).rsp = s.rsp := rfl
@[simp] theorem State.retired_cpl (s : State) (n : Nat) (c : Status) : (s.retired n c).cpl = s.cpl ++ [c] := rfl
@[simp] theorem State.retired_tick (s : State) (n : Nat) (c : Status) : (s.retired n c).tick = s.tick := rfl
@[simp] theorem State.retired_params (s : State) (n : Nat) (c : Status) : (s.retired n c).params = s.params := rfl
@[simp] theorem State.retired_hostQ (s : State) (n : Nat) (c : Status) : (s.retired n c).hostQ = s.hostQ := rfl
@[simp] theorem State.retired_envQ (s : State) (n : Nat) (c : Status) : (s.retired n c).envQ = s.envQ := rfl
@[simp] theorem State.retired_sched (s : State) (n : Nat) (c : Status) : (s.retired n c).sched = s.sched := rfl
@[simp] theorem State.retired_reads (s : State) (n : Nat) (c : Status) : (s.retired n c).reads = s.reads := rfl

/-! ### Fields after using up an environment completion -/
@[simp] theorem State.answered_on (s : State) : (s.answered).on = s.on := rfl
@[simp] theorem State.answered_brg (s : State) : (s.answered).brg = s.brg := rfl
@[simp] theorem State.answered_sen (s : State) : (s.answered).sen = s.sen := rfl
@[simp] theorem State.answered_rsen (s : State) : (s.answered).rsen = s.rsen := rfl
@[simp] theorem State.answered_pen (s : State) : (s.answered).pen = s.pen := rfl
@[simp] theorem State.answered_rcen (s : State) : (s.answered).rcen = s.rcen := rfl
@[simp] theorem State.answered_acken (s : State) : (s.answered).acken = s.acken := rfl
@[simp] theorem State.answered_ackdt (s : State) : (s.answered).ackdt = s.ackdt := rfl
@[simp] theorem State.answered_trstat (s : State) : (s.answered).trstat = s.trstat := rfl
@[simp] theorem State.answered_ackstat (s : State) : (s.answered).ackstat = s.ackstat := rfl
@[simp] theorem State.answered_rbf (s : State) : (s.answered).rbf = s.rbf := rfl
@[simp] theorem State.answered_trn (s : State) : (s.answered).trn = s.trn := rfl
@[simp] theorem State.answered_rcv (s : State) : (s.answered).rcv = s.rcv := rfl
@[simp] theorem State.answered_ts (s : State) : (s.answered).ts = s.ts := rfl
@[simp] theorem State.answered_busy (s : State) : (s.answered).busy = s.busy := rfl
@[simp] theorem State.answered_uq (s : State) : (s.answered).uq = s.uq := rfl
@[simp] theorem State.answered_upc (s : State) : (s.answered).upc = s.upc := rfl
@[simp] theorem State.answered_wst (s : State) : (s.answered).wst = s.wst := rfl
@[simp] theorem State.answered_t0 (s : State) : (s.answered).t0 = s.t0 := rfl
@[simp] theorem State.answered_st (s : State) : (s.answered).st = s.st := rfl
@[simp] theorem State.answered_latched (s : State) : (s.answered).latched = s.latched := rfl
@[simp] theorem State.answered_hung (s : State) : (s.answered).hung = s.hung := rfl
@[simp] theorem State.answered_fault (s : State) : (s.answered).fault = s.fault := rfl
@[simp] theorem State.answered_fb (s : State) : (s.answered).fb = s.fb := rfl
@[simp] theorem State.answered_fbEpoch (s : State) : (s.answered).fbEpoch = s.fbEpoch := rfl
@[simp] theorem State.answered_bus (s : State) : (s.answered).bus = s.bus := rfl
@[simp] theorem State.answered_rsp (s : State) : (s.answered).rsp = s.rsp := rfl
@[simp] theorem State.answered_cpl (s : State) : (s.answered).cpl = s.cpl := rfl
@[simp] theorem State.answered_tick (s : State) : (s.answered).tick = s.tick := rfl
@[simp] theorem State.answered_params (s : State) : (s.answered).params = s.params := rfl
@[simp] theorem State.answered_hostQ (s : State) : (s.answered).hostQ = s.hostQ := rfl
@[simp] theorem State.answered_envQ (s : State) : (s.answered).envQ = s.envQ.tail := rfl
@[simp] theorem State.answered_sched (s : State) : (s.answered).sched = s.sched := rfl
@[simp] theorem State.answered_reads (s : State) : (s.answered).reads = s.reads := rfl

/-! ### Fields after taking a host word -/
@[simp] theorem State.presented_on (s : State) : (s.presented).on = s.on := rfl
@[simp] theorem State.presented_brg (s : State) : (s.presented).brg = s.brg := rfl
@[simp] theorem State.presented_sen (s : State) : (s.presented).sen = s.sen := rfl
@[simp] theorem State.presented_rsen (s : State) : (s.presented).rsen = s.rsen := rfl
@[simp] theorem State.presented_pen (s : State) : (s.presented).pen = s.pen := rfl
@[simp] theorem State.presented_rcen (s : State) : (s.presented).rcen = s.rcen := rfl
@[simp] theorem State.presented_acken (s : State) : (s.presented).acken = s.acken := rfl
@[simp] theorem State.presented_ackdt (s : State) : (s.presented).ackdt = s.ackdt := rfl
@[simp] theorem State.presented_trstat (s : State) : (s.presented).trstat = s.trstat := rfl
@[simp] theorem State.presented_ackstat (s : State) : (s.presented).ackstat = s.ackstat := rfl
@[simp] theorem State.presented_rbf (s : State) : (s.presented).rbf = s.rbf := rfl
@[simp] theorem State.presented_trn (s : State) : (s.presented).trn = s.trn := rfl
@[simp] theorem State.presented_rcv (s : State) : (s.presented).rcv = s.rcv := rfl
@[simp] theorem State.presented_ts (s : State) : (s.presented).ts = s.ts := rfl
@[simp] theorem State.presented_busy (s : State) : (s.presented).busy = s.busy := rfl
@[simp] theorem State.presented_uq (s : State) : (s.presented).uq = s.uq := rfl
@[simp] theorem State.presented_upc (s : State) : (s.presented).upc = s.upc := rfl
@[simp] theorem State.presented_wst (s : State) : (s.presented).wst = s.wst := rfl
@[simp] theorem State.presented_t0 (s : State) : (s.presented).t0 = s.t0 := rfl
@[simp] theorem State.presented_st (s : State) : (s.presented).st = s.st := rfl
@[simp] theorem State.presented_latched (s : State) : (s.presented).latched = s.latched := rfl
@[simp] theorem State.presented_hung (s : State) : (s.presented).hung = s.hung := rfl
@[simp] theorem State.presented_fault (s : State) : (s.presented).fault = s.fault := rfl
@[simp] theorem State.presented_fb (s : State) : (s.presented).fb = s.fb := rfl
@[simp] theorem State.presented_fbEpoch (s : State) : (s.presented).fbEpoch = s.fbEpoch := rfl
@[simp] theorem State.presented_bus (s : State) : (s.presented).bus = s.bus := rfl
@[simp] theorem State.presented_rsp (s : State) : (s.presented).rsp = s.rsp := rfl
@[simp] theorem State.presented_cpl (s : State) : (s.presented).cpl = s.cpl := rfl
@[simp] theorem State.presented_tick (s : State) : (s.presented).tick = s.tick := rfl
@[simp] theorem State.presented_params (s : State) : (s.presented).params = s.params := rfl
@[simp] theorem State.presented_hostQ (s : State) : (s.presented).hostQ = s.hostQ.tail := rfl
@[simp] theorem State.presented_envQ (s : State) : (s.presented).envQ = s.envQ := rfl
@[simp] theorem State.presented_sched (s : State) : (s.presented).sched = s.sched := rfl
@[simp] theorem State.presented_reads (s : State) : (s.presented).reads = s.reads := rfl

/-! ### Fields after using up a turn -/
@[simp] theorem State.turned_on (s : State) : (s.turned).on = s.on := rfl
@[simp] theorem State.turned_brg (s : State) : (s.turned).brg = s.brg := rfl
@[simp] theorem State.turned_sen (s : State) : (s.turned).sen = s.sen := rfl
@[simp] theorem State.turned_rsen (s : State) : (s.turned).rsen = s.rsen := rfl
@[simp] theorem State.turned_pen (s : State) : (s.turned).pen = s.pen := rfl
@[simp] theorem State.turned_rcen (s : State) : (s.turned).rcen = s.rcen := rfl
@[simp] theorem State.turned_acken (s : State) : (s.turned).acken = s.acken := rfl
@[simp] theorem State.turned_ackdt (s : State) : (s.turned).ackdt = s.ackdt := rfl
@[simp] theorem State.turned_trstat (s : State) : (s.turned).trstat = s.trstat := rfl
@[simp] theorem State.turned_ackstat (s : State) : (s.turned).ackstat = s.ackstat := rfl
@[simp] theorem State.turned_rbf (s : State) : (s.turned).rbf = s.rbf := rfl
@[simp] theorem State.turned_trn (s : State) : (s.turned).trn = s.trn := rfl
@[simp] theorem State.turned_rcv (s : State) : (s.turned).rcv = s.rcv := rfl
@[simp] theorem State.turned_ts (s : State) : (s.turned).ts = s.ts := rfl
@[simp] theorem State.turned_busy (s : State) : (s.turned).busy = s.busy := rfl
@[simp] theorem State.turned_uq (s : State) : (s.turned).uq = s.uq := rfl
@[simp] theorem State.turned_upc (s : State) : (s.turned).upc = s.upc := rfl
@[simp] theorem State.turned_wst (s : State) : (s.turned).wst = s.wst := rfl
@[simp] theorem State.turned_t0 (s : State) : (s.turned).t0 = s.t0 := rfl
@[simp] theorem State.turned_st (s : State) : (s.turned).st = s.st := rfl
@[simp] theorem State.turned_latched (s : State) : (s.turned).latched = s.latched := rfl
@[simp] theorem State.turned_hung (s : State) : (s.turned).hung = s.hung := rfl
@[simp] theorem State.turned_fault (s : State) : (s.turned).fault = s.fault := rfl
@[simp] theorem State.turned_fb (s : State) : (s.turned).fb = s.fb := rfl
@[simp] theorem State.turned_fbEpoch (s : State) : (s.turned).fbEpoch = s.fbEpoch := rfl
@[simp] theorem State.turned_bus (s : State) : (s.turned).bus = s.bus := rfl
@[simp] theorem State.turned_rsp (s : State) : (s.turned).rsp = s.rsp := rfl
@[simp] theorem State.turned_cpl (s : State) : (s.turned).cpl = s.cpl := rfl
@[simp] theorem State.turned_tick (s : State) : (s.turned).tick = s.tick := rfl
@[simp] theorem State.turned_params (s : State) : (s.turned).params = s.params := rfl
@[simp] theorem State.turned_hostQ (s : State) : (s.turned).hostQ = s.hostQ := rfl
@[simp] theorem State.turned_envQ (s : State) : (s.turned).envQ = s.envQ := rfl
@[simp] theorem State.turned_sched (s : State) : (s.turned).sched = s.sched.tail := rfl
@[simp] theorem State.turned_reads (s : State) : (s.turned).reads = s.reads := rfl

/-! ### Fields after giving up the latched words -/
@[simp] theorem State.unlatched_on (s : State) : (s.unlatched).on = s.on := rfl
@[simp] theorem State.unlatched_brg (s : State) : (s.unlatched).brg = s.brg := rfl
@[simp] theorem State.unlatched_sen (s : State) : (s.unlatched).sen = s.sen := rfl
@[simp] theorem State.unlatched_rsen (s : State) : (s.unlatched).rsen = s.rsen := rfl
@[simp] theorem State.unlatched_pen (s : State) : (s.unlatched).pen = s.pen := rfl
@[simp] theorem State.unlatched_rcen (s : State) : (s.unlatched).rcen = s.rcen := rfl
@[simp] theorem State.unlatched_acken (s : State) : (s.unlatched).acken = s.acken := rfl
@[simp] theorem State.unlatched_ackdt (s : State) : (s.unlatched).ackdt = s.ackdt := rfl
@[simp] theorem State.unlatched_trstat (s : State) : (s.unlatched).trstat = s.trstat := rfl
@[simp] theorem State.unlatched_ackstat (s : State) : (s.unlatched).ackstat = s.ackstat := rfl
@[simp] theorem State.unlatched_rbf (s : State) : (s.unlatched).rbf = s.rbf := rfl
@[simp] theorem State.unlatched_trn (s : State) : (s.unlatched).trn = s.trn := rfl
@[simp] theorem State.unlatched_rcv (s : State) : (s.unlatched).rcv = s.rcv := rfl
@[simp] theorem State.unlatched_ts (s : State) : (s.unlatched).ts = s.ts := rfl
@[simp] theorem State.unlatched_busy (s : State) : (s.unlatched).busy = false := rfl
@[simp] theorem State.unlatched_uq (s : State) : (s.unlatched).uq = s.uq := rfl
@[simp] theorem State.unlatched_upc (s : State) : (s.unlatched).upc = s.upc := rfl
@[simp] theorem State.unlatched_wst (s : State) : (s.unlatched).wst = s.wst := rfl
@[simp] theorem State.unlatched_t0 (s : State) : (s.unlatched).t0 = s.t0 := rfl
@[simp] theorem State.unlatched_st (s : State) : (s.unlatched).st = s.st := rfl
@[simp] theorem State.unlatched_latched (s : State) : (s.unlatched).latched = [] := rfl
@[simp] theorem State.unlatched_hung (s : State) : (s.unlatched).hung = s.hung := rfl
@[simp] theorem State.unlatched_fault (s : State) : (s.unlatched).fault = s.fault := rfl
@[simp] theorem State.unlatched_fb (s : State) : (s.unlatched).fb = s.fb := rfl
@[simp] theorem State.unlatched_fbEpoch (s : State) : (s.unlatched).fbEpoch = s.fbEpoch := rfl
@[simp] theorem State.unlatched_bus (s : State) : (s.unlatched).bus = s.bus := rfl
@[simp] theorem State.unlatched_rsp (s : State) : (s.unlatched).rsp = s.rsp := rfl
@[simp] theorem State.unlatched_cpl (s : State) : (s.unlatched).cpl = s.cpl := rfl
@[simp] theorem State.unlatched_tick (s : State) : (s.unlatched).tick = s.tick := rfl
@[simp] theorem State.unlatched_params (s : State) : (s.unlatched).params = s.params := rfl
@[simp] theorem State.unlatched_hostQ (s : State) : (s.unlatched).hostQ = s.hostQ := rfl
@[simp] theorem State.unlatched_envQ (s : State) : (s.unlatched).envQ = s.envQ := rfl
@[simp] theorem State.unlatched_sched (s : State) : (s.unlatched).sched = s.sched := rfl
@[simp] theorem State.unlatched_reads (s : State) : (s.unlatched).reads = s.reads := rfl

/-! ### Fields after a read-port answer -/
@[simp] theorem State.answer_on (s : State) (r : PortRead) : (s.answer r).on = s.on := rfl
@[simp] theorem State.answer_brg (s : State) (r : PortRead) : (s.answer r).brg = s.brg := rfl
@[simp] theorem State.answer_sen (s : State) (r : PortRead) : (s.answer r).sen = s.sen := rfl
@[simp] theorem State.answer_rsen (s : State) (r : PortRead) : (s.answer r).rsen = s.rsen := rfl
@[simp] theorem State.answer_pen (s : State) (r : PortRead) : (s.answer r).pen = s.pen := rfl
@[simp] theorem State.answer_rcen (s : State) (r : PortRead) : (s.answer r).rcen = s.rcen := rfl
@[simp] theorem State.answer_acken (s : State) (r : PortRead) : (s.answer r).acken = s.acken := rfl
@[simp] theorem State.answer_ackdt (s : State) (r : PortRead) : (s.answer r).ackdt = s.ackdt := rfl
@[simp] theorem State.answer_trstat (s : State) (r : PortRead) : (s.answer r).trstat = s.trstat := rfl
@[simp] theorem State.answer_ackstat (s : State) (r : PortRead) : (s.answer r).ackstat = s.ackstat := rfl
@[simp] theorem State.answer_rbf (s : State) (r : PortRead) : (s.answer r).rbf = s.rbf := rfl
@[simp] theorem State.answer_trn (s : State) (r : PortRead) : (s.answer r).trn = s.trn := rfl
@[simp] theorem State.answer_rcv (s : State) (r : PortRead) : (s.answer r).rcv = s.rcv := rfl
@[simp] theorem State.answer_ts (s : State) (r : PortRead) : (s.answer r).ts = s.ts := rfl
@[simp] theorem State.answer_busy (s : State) (r : PortRead) : (s.answer r).busy = s.busy := rfl
@[simp] theorem State.answer_uq (s : State) (r : PortRead) : (s.answer r).uq = s.uq := rfl
@[simp] theorem State.answer_upc (s : State) (r : PortRead) : (s.answer r).upc = s.upc := rfl
@[simp] theorem State.answer_wst (s : State) (r : PortRead) : (s.answer r).wst = s.wst := rfl
@[simp] theorem State.answer_t0 (s : State) (r : PortRead) : (s.answer r).t0 = s.t0 := rfl
@[simp] theorem State.answer_st (s : State) (r : PortRead) : (s.answer r).st = s.st := rfl
@[simp] theorem State.answer_latched (s : State) (r : PortRead) : (s.answer r).latched = s.latched := rfl
@[simp] theorem State.answer_hung (s : State) (r : PortRead) : (s.answer r).hung = s.hung := rfl
@[simp] theorem State.answer_fault (s : State) (r : PortRead) : (s.answer r).fault = s.fault := rfl
@[simp] theorem State.answer_fb (s : State) (r : PortRead) : (s.answer r).fb = s.fb := rfl
@[simp] theorem State.answer_fbEpoch (s : State) (r : PortRead) : (s.answer r).fbEpoch = s.fbEpoch := rfl
@[simp] theorem State.answer_bus (s : State) (r : PortRead) : (s.answer r).bus = s.bus := rfl
@[simp] theorem State.answer_rsp (s : State) (r : PortRead) : (s.answer r).rsp = s.rsp := rfl
@[simp] theorem State.answer_cpl (s : State) (r : PortRead) : (s.answer r).cpl = s.cpl := rfl
@[simp] theorem State.answer_tick (s : State) (r : PortRead) : (s.answer r).tick = s.tick := rfl
@[simp] theorem State.answer_params (s : State) (r : PortRead) : (s.answer r).params = s.params := rfl
@[simp] theorem State.answer_hostQ (s : State) (r : PortRead) : (s.answer r).hostQ = s.hostQ := rfl
@[simp] theorem State.answer_envQ (s : State) (r : PortRead) : (s.answer r).envQ = s.envQ := rfl
@[simp] theorem State.answer_sched (s : State) (r : PortRead) : (s.answer r).sched = s.sched := rfl
@[simp] theorem State.answer_reads (s : State) (r : PortRead) : (s.answer r).reads = s.reads ++ [r] := rfl

/-! ### Fields after the reset event (R38, R180, R181) -/
@[simp] theorem State.resetBlock_on (s : State) : s.resetBlock.on = false := rfl
@[simp] theorem State.resetBlock_brg (s : State) : s.resetBlock.brg = 0 := rfl
@[simp] theorem State.resetBlock_sen (s : State) : s.resetBlock.sen = false := rfl
@[simp] theorem State.resetBlock_rsen (s : State) : s.resetBlock.rsen = false := rfl
@[simp] theorem State.resetBlock_pen (s : State) : s.resetBlock.pen = false := rfl
@[simp] theorem State.resetBlock_rcen (s : State) : s.resetBlock.rcen = false := rfl
@[simp] theorem State.resetBlock_acken (s : State) : s.resetBlock.acken = false := rfl
@[simp] theorem State.resetBlock_ackdt (s : State) : s.resetBlock.ackdt = 0 := rfl
@[simp] theorem State.resetBlock_trstat (s : State) : s.resetBlock.trstat = false := rfl
@[simp] theorem State.resetBlock_ackstat (s : State) : s.resetBlock.ackstat = 0 := rfl
@[simp] theorem State.resetBlock_rbf (s : State) : s.resetBlock.rbf = false := rfl
@[simp] theorem State.resetBlock_trn (s : State) : s.resetBlock.trn = 0 := rfl
@[simp] theorem State.resetBlock_rcv (s : State) : s.resetBlock.rcv = 0 := rfl
@[simp] theorem State.resetBlock_ts (s : State) : s.resetBlock.ts = .idle := rfl
@[simp] theorem State.resetBlock_busy (s : State) : s.resetBlock.busy = false := rfl
@[simp] theorem State.resetBlock_uq (s : State) : s.resetBlock.uq = [] := rfl
@[simp] theorem State.resetBlock_upc (s : State) : s.resetBlock.upc = 0 := rfl
@[simp] theorem State.resetBlock_wst (s : State) : s.resetBlock.wst = .ready := rfl
@[simp] theorem State.resetBlock_t0 (s : State) : s.resetBlock.t0 = 0 := rfl
@[simp] theorem State.resetBlock_st (s : State) : s.resetBlock.st = .ok := rfl
@[simp] theorem State.resetBlock_latched (s : State) : s.resetBlock.latched = [] := rfl
@[simp] theorem State.resetBlock_hung (s : State) : s.resetBlock.hung = false := rfl
@[simp] theorem State.resetBlock_fault (s : State) : s.resetBlock.fault = .noFault := rfl
@[simp] theorem State.resetBlock_fb (s : State) : s.resetBlock.fb = [] := rfl
@[simp] theorem State.resetBlock_fbEpoch (s : State) : s.resetBlock.fbEpoch = s.fbEpoch + 1 := rfl
@[simp] theorem State.resetBlock_bus (s : State) : s.resetBlock.bus = if s.busHeld then s.bus ++ [.rst] else s.bus := rfl
@[simp] theorem State.resetBlock_rsp (s : State) : s.resetBlock.rsp = s.rsp := rfl
@[simp] theorem State.resetBlock_cpl (s : State) : s.resetBlock.cpl = s.cpl := rfl
@[simp] theorem State.resetBlock_tick (s : State) : s.resetBlock.tick = s.tick := rfl
@[simp] theorem State.resetBlock_params (s : State) : s.resetBlock.params = s.params := rfl
@[simp] theorem State.resetBlock_hostQ (s : State) : s.resetBlock.hostQ = s.hostQ := rfl
@[simp] theorem State.resetBlock_envQ (s : State) : s.resetBlock.envQ = s.envQ := rfl
@[simp] theorem State.resetBlock_sched (s : State) : s.resetBlock.sched = s.sched := rfl
@[simp] theorem State.resetBlock_reads (s : State) : s.resetBlock.reads = s.reads := rfl

end Sys2Proof.Machine
end

