-- ==== Sys2Proof/Laws/Mem.lean ====
section
/-! SUPPORT. Laws of the cells: a read after a write, the canonical form, and that every framebuffer operation keeps
it. -/

namespace Sys2Proof

theorem cellsWfFrom_mono {lo lo' hi : Nat} {m : List Host.Cell} (h : lo' ≤ lo) (w : cellsWfFrom lo hi m = true) :
    cellsWfFrom lo' hi m = true := by
  cases m with
  | nil => rfl
  | cons c m =>
    obtain ⟨a, v⟩ := c
    simp only [cellsWfFrom, Bool.and_eq_true, decide_eq_true_eq] at w ⊢
    exact ⟨⟨by omega, w.1.2⟩, w.2⟩

namespace Machine

@[simp] theorem memFind_nil (a : Nat) : memFind a [] = none := rfl

theorem memFind_memPut (a b : Nat) (v : Byte) (m : Mem) (lo hi : Nat) (w : cellsWfFrom lo hi m = true) :
    memFind b (memPut a v m) = if b = a then some v else memFind b m := by
  induction m generalizing lo with
  | nil => simp [memPut, memFind]
  | cons c m ih =>
    obtain ⟨d, x⟩ := c
    simp only [cellsWfFrom, Bool.and_eq_true, decide_eq_true_eq] at w
    simp only [memPut]
    split
    · simp only [memFind]
    · split
      · subst_vars; simp only [memFind]; split <;> simp_all
      · have hi := ih _ w.2
        simp only [memFind, hi]
        split <;> split <;> simp_all

/-- A cell below the least address is not listed. -/
theorem memFind_below {a lo hi : Nat} {m : Mem} (w : cellsWfFrom lo hi m = true) (h : a < lo) : memFind a m = none := by
  induction m generalizing lo with
  | nil => rfl
  | cons c m ih =>
    obtain ⟨d, x⟩ := c
    simp only [cellsWfFrom, Bool.and_eq_true, decide_eq_true_eq] at w
    simp only [memFind]
    rw [if_neg (by omega)]
    exact ih w.2 (by omega)

/-- Equal memories are equal data: the canonical form is determined by its reads. -/
theorem mem_ext {lo hi : Nat} {m n : Mem} (wm : cellsWfFrom lo hi m = true) (wn : cellsWfFrom lo hi n = true)
    (h : ∀ a, memFind a m = memFind a n) : m = n := by
  induction m generalizing lo n with
  | nil =>
    cases n with
    | nil => rfl
    | cons c n => have := h c.1; simp [memFind] at this
  | cons c m ih =>
    obtain ⟨a, v⟩ := c
    simp only [cellsWfFrom, Bool.and_eq_true, decide_eq_true_eq] at wm
    cases n with
    | nil => have := h a; simp [memFind] at this
    | cons d n =>
      obtain ⟨b, x⟩ := d
      simp only [cellsWfFrom, Bool.and_eq_true, decide_eq_true_eq] at wn
      have hab : a = b := by
        rcases Nat.lt_trichotomy a b with hlt | heq | hgt
        · have := h a
          simp only [memFind, if_pos, if_neg (Nat.ne_of_lt hlt)] at this
          rw [memFind_below wn.2 (by omega)] at this; simp at this
        · exact heq
        · have := h b
          simp only [memFind, if_pos, if_neg (Nat.ne_of_lt hgt)] at this
          rw [memFind_below wm.2 (by omega)] at this; simp at this
      subst hab
      have hv : v = x := by have := h a; simpa [memFind] using this
      subst hv
      congr 1
      refine ih wm.2 wn.2 fun k => ?_
      by_cases hk : k = a
      · subst hk; rw [memFind_below wm.2 (by omega), memFind_below wn.2 (by omega)]
      · have := h k; simpa [memFind, hk] using this

theorem memPut_wf {a lo hi : Nat} {v : Byte} {m : Mem} (w : cellsWfFrom lo hi m = true) (hl : lo ≤ a) (hh : a < hi) :
    cellsWfFrom lo hi (memPut a v m) = true := by
  induction m generalizing lo with
  | nil => simp [memPut, cellsWfFrom, hl, hh]
  | cons c m ih =>
    obtain ⟨b, x⟩ := c
    simp only [cellsWfFrom, Bool.and_eq_true, decide_eq_true_eq] at w
    simp only [memPut]
    split
    · simp only [cellsWfFrom, Bool.and_eq_true, decide_eq_true_eq]
      exact ⟨⟨hl, hh⟩, ⟨by omega, w.1.2⟩, w.2⟩
    · split
      · subst_vars
        simp only [cellsWfFrom, Bool.and_eq_true, decide_eq_true_eq]
        exact ⟨⟨hl, hh⟩, w.2⟩
      · simp only [cellsWfFrom, Bool.and_eq_true, decide_eq_true_eq]
        exact ⟨w.1, ih w.2 (by omega)⟩

/-- A read of `FB` after a write of one byte. -/
theorem fbGet_memPut (e a b : Nat) (v : Byte) {m : Mem} (w : memWf m = true) :
    fbGet e (memPut a v m) b = if b = a then v else fbGet e m b := by
  simp only [fbGet, memFind_memPut a b v m _ _ w]
  split <;> simp_all

/-- The cells `lo .. lo+n-1`, all zero. -/
theorem zeroCells_wf (lo n : Nat) : cellsWfFrom lo (lo + n) ((List.range' lo n).map fun i => (i, (0 : Byte))) = true := by
  induction n generalizing lo with
  | zero => rfl
  | succ n ih =>
    simp only [List.range'_succ, List.map_cons, cellsWfFrom, Bool.and_eq_true, decide_eq_true_eq]
    refine ⟨⟨by omega, by omega⟩, ?_⟩
    have := ih (lo + 1)
    rwa [show lo + 1 + n = lo + (n + 1) by omega] at this

theorem zeroCells_find (lo n a : Nat) (hl : lo ≤ a) (hh : a < lo + n) :
    memFind a ((List.range' lo n).map fun i => (i, (0 : Byte))) = some 0 := by
  induction n generalizing lo with
  | zero => omega
  | succ n ih =>
    simp only [List.range'_succ, List.map_cons, memFind]
    split
    · rfl
    · exact ih (lo + 1) (by omega) (by omega)

theorem fbZero_wf : memWf fbZero = true := by
  have := zeroCells_wf 0 512
  rw [← List.range_eq_range'] at this
  simpa [memWf, fbZero, fbBytes] using this

/-- After `FBCLEAR` every byte reads 0 (R132). -/
theorem fbGet_fbZero (e i : Nat) (h : i < 512) : fbGet e fbZero i = 0 := by
  have := zeroCells_find 0 512 i (by omega) (by omega)
  rw [← List.range_eq_range'] at this
  simp only [fbGet, fbZero, fbBytes]
  rw [this]; rfl

/-! ### Drawing keeps the canonical form -/

theorem pixelIdx_lt {x y : Nat} (hx : x < 128) (hy : y < 32) : pixelIdx x y < 512 := by
  simp only [pixelIdx, pageH, fbW]; omega

theorem setpix_wf (e : Nat) {fb : Mem} (x y : Nat) (c : Bool) (w : memWf fb = true) : memWf (setpix e fb x y c) = true := by
  unfold setpix
  split
  · exact w
  · rename_i h
    simp only [fbW, fbH, not_or, Nat.not_le] at h
    exact memPut_wf w (Nat.zero_le _) (pixelIdx_lt h.1 h.2)

theorem drawColumn_wf (e : Nat) (col : Byte) (x y n j : Nat) {fb : Mem} (w : memWf fb = true) :
    memWf (drawColumn e col x y n j fb) = true := by
  induction n generalizing j fb with
  | zero => exact w
  | succ n ih => exact ih _ (setpix_wf e _ _ _ w)

theorem drawColumns_wf (e : Nat) (p : Params) (ch : Byte) (x y n i : Nat) {fb : Mem} (w : memWf fb = true) :
    memWf (drawColumns e p ch x y n i fb) = true := by
  induction n generalizing i fb with
  | zero => exact w
  | succ n ih => exact ih _ (drawColumn_wf e _ _ _ _ _ w)

theorem letter_wf (e : Nat) (p : Params) {fb : Mem} (x y : Nat) (ch : Byte) (w : memWf fb = true) :
    memWf (letter e p fb x y ch) = true := drawColumns_wf e p ch x y _ _ w

theorem message_wf (e : Nat) (p : Params) {fb : Mem} (x y : Nat) (t : List Byte) (w : memWf fb = true) :
    memWf (message e p fb x y t) = true := by
  induction t generalizing fb x y with
  | nil => exact w
  | cons ch t ih => exact ih _ _ (letter_wf e p _ _ _ w)

theorem drawOn_wf (e : Nat) (p : Params) {fb : Mem} (d : Draw) (w : memWf fb = true) :
    memWf (drawOn e p fb d) = true := by
  cases d with
  | pixel x y c => exact setpix_wf e _ _ _ w
  | letter x y ch => exact letter_wf e p _ _ _ w
  | message x y t => exact message_wf e p _ _ _ w

theorem reset_memWf : memWf State.reset.fb = true := rfl

end Machine
end Sys2Proof
end

