-- ==== Sys2Proof/Laws/Draw.lean ====
section
/-! SUPPORT. What the drawing functions do to a byte, a bit and a pixel of the framebuffer. -/

namespace Sys2Proof.Machine

theorem inCell_iff {x y px py : Nat} : inCell x y px py = true ↔ x ≤ px ∧ px < x + 5 ∧ y ≤ py ∧ py < y + 8 := by
  unfold inCell; rw [decide_eq_true_iff]; rfl

/-- Two in-range pixels at one bit of one byte are one pixel. -/
theorem pixelIdx_inj {x y x' y' : Nat} (hx : x < 128) (hx' : x' < 128) (h : pixelIdx x y = pixelIdx x' y')
    (hb : y % 8 = y' % 8) : x = x' ∧ y = y' := by
  simp only [pixelIdx, pageH, fbW] at h; omega

/-- One bit of a byte after a masked bit is set or cleared. -/
theorem putBit_getLsbD (v : Byte) (y : Nat) (c : Bool) (j : Nat) (hj : j < 8) :
    (putBit v (pixelMask y) c).getLsbD j = if j = y % 8 then c else v.getLsbD j := by
  have : y % 8 < 8 := Nat.mod_lt _ (by decide)
  simp only [putBit, pixelMask, pageH]
  generalize y % 8 = b at *
  cases c <;> interval_cases b <;> interval_cases j <;> simp

/-- One byte of the framebuffer after `setpix` (R130). -/
theorem fbGet_setpix (e : Nat) {fb : Mem} (w : memWf fb = true) (x y : Nat) (c : Bool) (i : Nat) :
    fbGet e (setpix e fb x y c) i =
      if x < 128 ∧ y < 32 ∧ i = pixelIdx x y then putBit (fbGet e fb i) (pixelMask y) c else fbGet e fb i := by
  unfold setpix
  split
  · rename_i h
    simp only [fbW, fbH] at h
    rw [if_neg (by omega)]
  · rename_i h
    simp only [fbW, fbH, not_or, Nat.not_le] at h
    rw [fbGet_memPut _ _ _ _ w]
    by_cases hi : i = pixelIdx x y
    · rw [if_pos hi, if_pos ⟨h.1, h.2, hi⟩, hi]
    · rw [if_neg hi, if_neg fun k => hi k.2.2]

/-- One pixel of the framebuffer after `setpix` (R130). -/
theorem pixel_setpix (e : Nat) {fb : Mem} (w : memWf fb = true) (x y : Nat) (c : Bool) (x' y' : Nat) (hx' : x' < 128)
    (hy' : y' < 32) :
    pixel e (setpix e fb x y c) x' y' = if x' = x ∧ y' = y then c else pixel e fb x' y' := by
  simp only [pixel, fbGet_setpix e w]
  by_cases hi : x < 128 ∧ y < 32 ∧ pixelIdx x' y' = pixelIdx x y
  · rw [if_pos hi]
    simp only [pageH]
    rw [putBit_getLsbD _ _ _ _ (Nat.mod_lt _ (by decide))]
    by_cases hb : y' % 8 = y % 8
    · rw [if_pos hb, if_pos (pixelIdx_inj hx' hi.1 hi.2.2 hb)]
    · rw [if_neg hb, if_neg (by rintro ⟨rfl, rfl⟩; exact hb rfl)]
  · rw [if_neg hi, if_neg (by rintro ⟨rfl, rfl⟩; exact hi ⟨hx', hy', rfl⟩)]

/-- One pixel after a column of a glyph (R133). -/
theorem pixel_drawColumn (e : Nat) (col : Byte) (x y n j : Nat) {fb : Mem} (w : memWf fb = true) (px py : Nat)
    (hx : px < 128) (hy : py < 32) :
    pixel e (drawColumn e col x y n j fb) px py =
      if px = x ∧ y + j ≤ py ∧ py < y + j + n then col.getLsbD (py - y) else pixel e fb px py := by
  induction n generalizing j fb with
  | zero => rw [if_neg (by omega)]; rfl
  | succ n ih =>
    simp only [drawColumn]
    rw [ih _ (setpix_wf e _ _ _ w), pixel_setpix e w _ _ _ _ _ hx hy]
    split
    · rw [if_pos (by omega)]
    · split
      · rw [if_pos (by omega)]; congr 1; omega
      · rw [if_neg (by omega)]

end Sys2Proof.Machine
end

