-- ==== Sys2Proof/Laws/PerInstr.lean ====
section
/-! SUPPORT. Per-instruction laws, made one lemma per constructor: the first word of a command's encoding carries its
opcode, and asks for exactly the payload words that follow it (spec/30_encoding.md R80, R83, R86). -/

namespace Sys2Proof.Laws.EncodedHead

/-- The first word of the encoding has the command's opcode in bits 31:24; the words after it are as many as the
decoder reads after that word. -/
def Statement (i : Instr) : Prop :=
  i.wf = true → ∃ w ws, encode i = w :: ws ∧ opField w = opcode i ∧ ws.length = payloadCount w

/-- A command of one word whose opcode is not that of `OLED_MSG`. -/
theorem single {i : Instr} {w : Word} (he : encode i = [w]) (ho : opField w = opcode i) (hm : opcode i ≠ 0x26#8) :
    Statement i := by
  intro _
  refine ⟨w, [], he, ho, ?_⟩
  rw [← ho] at hm
  simp [payloadCount, isMsgHeader_eq, hm]

theorem i2cSetup : Statement .i2cSetup := single rfl (by simp [opcode]) (by simp [opcode])

theorem i2cStart : Statement .i2cStart := single rfl (by simp [opcode]) (by simp [opcode])

theorem i2cRestart : Statement .i2cRestart := single rfl (by simp [opcode]) (by simp [opcode])

theorem i2cSend (byte : Byte) : Statement (.i2cSend byte) := single rfl (by simp [opcode]) (by simp [opcode])

theorem i2cRecv : Statement .i2cRecv := single rfl (by simp [opcode]) (by simp [opcode])

theorem i2cAck (a : BitVec 1) : Statement (.i2cAck a) := single rfl (by simp [opcode]) (by simp [opcode])

theorem i2cStop : Statement .i2cStop := single rfl (by simp [opcode]) (by simp [opcode])

theorem i2cWrreg (dev : BitVec 7) (reg v : Byte) : Statement (.i2cWrreg dev reg v) := single rfl (by simp [opcode]) (by simp [opcode])

theorem i2cRdreg (dev : BitVec 7) (reg : Byte) : Statement (.i2cRdreg dev reg) := single rfl (by simp [opcode]) (by simp [opcode])

theorem i2cRdmult (dev : BitVec 7) (reg count : Byte) : Statement (.i2cRdmult dev reg count) := single rfl (by simp [opcode]) (by simp [opcode])

theorem oledSetup : Statement .oledSetup := single rfl (by simp [opcode]) (by simp [opcode])

theorem oledCmd (byte : Byte) : Statement (.oledCmd byte) := single rfl (by simp [opcode]) (by simp [opcode])

theorem oledPixel (x y color : Byte) : Statement (.oledPixel x y color) := single rfl (by simp [opcode]) (by simp [opcode])

theorem oledClear : Statement .oledClear := single rfl (by simp [opcode]) (by simp [opcode])

theorem oledUpdate : Statement .oledUpdate := single rfl (by simp [opcode]) (by simp [opcode])

theorem oledLetter (x y ch : Byte) : Statement (.oledLetter x y ch) := single rfl (by simp [opcode]) (by simp [opcode])

theorem oledMsg (x y : Byte) (text : List Byte) : Statement (.oledMsg x y text) := by
  intro h
  have hl : text.length ≤ 255 := by simpa [Instr.wf] using h
  refine ⟨_, _, rfl, by simp [opcode], ?_⟩
  simp [payloadCount, isMsgHeader_eq, opcode]
  omega

end Sys2Proof.Laws.EncodedHead
end

