-- ==== Sys2Proof/Laws/Step.lean ====
section
/-! SUPPORT. What one step can do, said once (`Move`, `step_move`), what accepting a command can do, and the forward
equations of a step in the default order. -/

namespace Sys2Proof.Machine

/-! ### Accepting -/

/-- Everything `accept` can do. -/
theorem accept_next (q : List MicroOp) (s : State) :
    accept q s = .next (if s.idleReady then s.load q else s) := by
  unfold accept; split <;> rfl

/-- Everything `refuseOperand` can do. -/
theorem refuseOperand_next (s : State) :
    refuseOperand s = .next (if s.idleReady then s.raiseFault .operand else s) := by
  unfold refuseOperand; split <;> rfl

/-- Everything `exec` can do: load a queue, raise `OPERAND`, or leave the state alone. -/
theorem exec_cases {i : Instr} {s t : State} (h : exec i s = .next t) :
    (s.idleReady = true ∧ ∃ q, t = s.load q) ∨ (s.idleReady = true ∧ t = s.raiseFault .operand)
      ∨ (s.idleReady = false ∧ t = s) := by
  have key : ∀ q, accept q s = .next t →
      (s.idleReady = true ∧ ∃ q, t = s.load q) ∨ (s.idleReady = true ∧ t = s.raiseFault .operand)
        ∨ (s.idleReady = false ∧ t = s) := by
    intro q hq
    rw [accept_next] at hq
    by_cases hr : s.idleReady = true
    · simp only [hr, if_true, Host.Outcome.next.injEq] at hq
      exact .inl ⟨hr, q, hq.symm⟩
    · simp only [hr, Host.Outcome.next.injEq] at hq
      exact .inr (.inr ⟨by simpa using hr, by simpa using hq.symm⟩)
  cases i with
  | i2cRdmult dev reg count =>
    simp only [exec, execI2cRdmult] at h
    split at h
    · rw [refuseOperand_next] at h
      by_cases hr : s.idleReady = true
      · simp only [hr, if_true, Host.Outcome.next.injEq] at h
        exact .inr (.inl ⟨hr, h.symm⟩)
      · simp only [hr, Host.Outcome.next.injEq] at h
        exact .inr (.inr ⟨by simpa using hr, by simpa using h.symm⟩)
    · exact key _ h
  | _ => exact key _ h

/-! ### Inversion of a step -/

/-- Everything one step can do to a state `s` whose turn `a` (none: the default order) has been taken off the schedule. -/
inductive Move (a : Option Turn) (s : State) : State → Prop
  | stay : Move a s s
  | issue (m : MicroOp) (rest : List MicroOp) (hr : s.running = true) (hw : s.wst = .ready) (hq : s.uq = m :: rest) :
      Move a s (issueOp m s)
  | retire (hr : s.running = true) (hw : s.wst = .ready) (hq : s.uq = []) : Move a s (retire s)
  | delayDone (n : Word) (hr : s.running = true) (hw : s.wst = .waiting (.delay n)) (he : n ≤ s.elapsed) :
      Move a s s.finish
  | complete (m : MicroOp) (e : EnvAct) (es : List EnvAct) (t : State) (hr : s.running = true)
      (hw : s.wst = .waiting m) (he : s.envQ = e :: es) (hc : complete m e s.answered = some t) : Move a s t
  | drop (e : EnvAct) (es : List EnvAct) (hr : s.running = true) (he : s.envQ = e :: es) : Move a s s.answered
  | timeout (hr : s.running = true) (hb : s.busWaiting = true) (hm : s.params.errMode = .report)
      (he : s.params.pollTimeout ≤ s.elapsed) :
      Move a s (({ s with st := .timeout }.pushCpl .timeout).raiseFault .timeout)
  | word (w : Word) (ws : List Word) (t : State) (hc : s.cmdReady = true) (hq : s.hostQ = w :: ws)
      (ht : takeWord w s.presented = .next t) : Move a s t
  | tick (n : Word) (ha : a = some (.tick n)) : Move a s { s with tick := s.tick + n }
  | reset (ha : a = some .reset) : Move a s s.resetBlock
  | read (r : PortRead) (ha : (∃ i, a = some (.readCsr i)) ∨ ∃ i, a = some (.readFb i)) : Move a s (s.answer r)

theorem move_block {a : Option Turn} {s t : State} (h : blockStep s = some t) : Move a s t := by
  unfold blockStep at h
  split at h
  · rename_i hr
    split at h
    · rename_i m rest hw hq; cases h; exact .issue m rest hr hw hq
    · rename_i hw hq; cases h; exact .retire hr hw hq
    · cases h
  · cases h

theorem move_complete {a : Option Turn} {s t : State} (h : completeStep s = some t) : Move a s t := by
  unfold completeStep at h
  split at h
  · rename_i hr
    split at h
    · cases h
    · rename_i n hw
      split at h
      · rename_i he; cases h; exact .delayDone n hr hw he
      · cases h
    · rename_i m hm hw
      split at h
      · cases h
      · rename_i e es he
        cases hc : complete m e s.answered with
        | none => rw [hc] at h; cases h; exact .drop e es hr he
        | some u => rw [hc] at h; cases h; exact .complete m e es u hr hw he hc
  · cases h

theorem move_timeout {a : Option Turn} {s t : State} (h : timeoutStep s = some t) : Move a s t := by
  unfold timeoutStep at h
  split at h
  · rename_i hc
    simp only [Bool.and_eq_true, decide_eq_true_eq] at hc
    cases h
    exact .timeout hc.1.1.1 hc.1.1.2 hc.1.2 hc.2
  · cases h

theorem move_host {a : Option Turn} {s t : State} (h : hostStep s = .next t) : Move a s t := by
  unfold hostStep at h
  split at h
  · cases h; exact .stay
  · rename_i w ws hq
    split at h
    · rename_i hc; exact .word w ws t hc hq h
    · cases h; exact .stay

theorem move_stay {a : Option Turn} {s t : State} {m : Option State} (hm : ∀ u, m = some u → Move a s u) (h : orStay m s = .next t) :
    Move a s t := by
  unfold orStay at h
  cases m with
  | none => cases h; exact .stay
  | some u => cases h; exact hm _ rfl

/-- The inversion lemma of `step`. -/
theorem step_move {s t : State} (h : step s = .next t) : Move s.sched.head? s.turned t := by
  unfold step advance at h
  split at h
  · rename_i hs
    have : s.turned = s := by cases s; simp_all [State.turned]
    rw [this]
    unfold defaultStep at h
    split at h
    · rename_i u hu
      cases h
      rcases hb : blockStep s with _ | v
      · rcases hc : completeStep s with _ | v
        · simp only [hb, hc, Option.or] at hu; exact move_timeout hu
        · simp only [hb, hc, Option.or] at hu; cases hu; exact move_complete hc
      · simp only [hb, Option.or] at hu; cases hu; exact move_block hb
    · exact move_host h
  · rename_i a as hs
    cases a with
    | block =>
      refine move_stay (fun u hu => ?_) h
      rcases hb : blockStep s.turned with _ | v
      · simp only [hb, Option.or] at hu; exact move_timeout hu
      · simp only [hb, Option.or] at hu; cases hu; exact move_block hb
    | env => exact move_stay (fun u hu => move_complete hu) h
    | host => exact move_host h
    | tick n => cases h; exact .tick n (by rw [hs]; rfl)
    | reset => cases h; exact .reset (by rw [hs]; rfl)
    | readCsr i => cases h; exact .read _ (.inl ⟨i, by rw [hs]; rfl⟩)
    | readFb i => cases h; exact .read _ (.inr ⟨i, by rw [hs]; rfl⟩)

/-- Everything a completion can do. -/
theorem complete_cases {m : MicroOp} {e : EnvAct} {s t : State} (h : complete m e s = some t) :
    (m = .start ∧ e = .startDone ∧ t = ({ s with sen := false, ts := .startSent }.emit .s).finish)
    ∨ (m = .restart ∧ e = .restartDone ∧ t = ({ s with rsen := false, ts := .restartSent }.emit .sr).finish)
    ∨ (m = .stop ∧ e = .stopDone ∧ t = ({ s with pen := false, ts := .idle }.emit .p).finish)
    ∨ (∃ a, m = .ack a ∧ e = .ackDone ∧ t = ({ s with acken := false, ts := tsAfterAck a }.emit (.ma a)).finish)
    ∨ (∃ b a, m = .send b ∧ e = .txDone a ∧ t = completeSend b a s)
    ∨ (∃ d, m = .recv ∧ e = .rxDone d
        ∧ t = (({ s with rcen := false, rcv := d, rbf := false, ts := .dataRecv }.pushRsp d).emit (.rx d)).finish) := by
  cases m <;> cases e <;> simp_all [complete]

/-- Everything the host's word can do to a ready block. -/
theorem takeWord_cases {w : Word} {s t : State} (hr : s.cmdReady = true) (h : takeWord w s = .next t) :
    (∃ q, t = s.unlatched.load q) ∨ t = s.unlatched.raiseFault .operand ∨ t = s.unlatched.raiseFault .illegalCmd
    ∨ (t = { s with latched := s.latched ++ [w], busy := true } ∧ decode (s.latched ++ [w]) = .more) := by
  have ha : s.unlatched.idleReady = true := by
    simp [State.cmdReady, State.alive] at hr
    simp only [State.idleReady, State.alive, State.unlatched, hr.1.1, hr.1.2]
    rfl
  unfold takeWord at h
  split at h
  · rcases exec_cases h with ⟨_, q, hq⟩ | ⟨_, hq⟩ | ⟨hn, _⟩
    · exact .inl ⟨q, hq⟩
    · exact .inr (.inl hq)
    · rw [ha] at hn; cases hn
  · rename_i hd; cases h; exact .inr (.inr (.inr ⟨rfl, hd⟩))
  · cases h; exact .inr (.inr (.inl rfl))

/-! ### Forward equations in the default order -/

theorem running_iff {s : State} :
    s.running = true ↔ s.hung = false ∧ s.fault = .noFault ∧ s.busy = true ∧ s.latched = [] := by
  simp [State.running, State.alive, List.isEmpty_iff, and_assoc]

theorem idleReady_iff {s : State} : s.idleReady = true ↔ s.hung = false ∧ s.fault = .noFault ∧ s.busy = false := by
  simp [State.idleReady, State.alive, and_assoc]

theorem step_issue {s : State} {m : MicroOp} {rest : List MicroOp} (h : s.AtHead m rest) :
    step s = .next (issueOp m s) := by
  obtain ⟨hr, hw, hq, hs⟩ := h
  simp [step, advance, hs, defaultStep, blockStep, hr, hw, hq]

theorem step_retire {s : State} (hr : s.running = true) (hw : s.wst = .ready) (hq : s.uq = []) (hs : s.sched = []) :
    step s = .next (retire s) := by
  simp [step, advance, hs, defaultStep, blockStep, hr, hw, hq]

theorem blockStep_waiting {s : State} {m : MicroOp} (hw : s.wst = .waiting m) : blockStep s = none := by
  unfold blockStep; split
  · simp [hw]
  · rfl

theorem step_complete {s t : State} {m : MicroOp} {e : EnvAct} {es : List EnvAct} (h : s.Waits m)
    (he : s.envQ = e :: es) (hc : complete m e s.answered = some t) : step s = .next t := by
  obtain ⟨hr, hw, hs⟩ := h
  have hcs : completeStep s = some t := by
    unfold completeStep
    rw [if_pos hr, hw, he]
    cases m with
    | delay n => simp [complete] at hc
    | _ => simp [hc]
  simp [step, advance, hs, defaultStep, blockStep_waiting hw, hcs]

theorem runs_zero {s u : State} : Runs 0 s u ↔ s = u := by
  exact ⟨fun h => by cases h; rfl, fun h => by subst h; rfl⟩

theorem runs_succ {k : Nat} {s t u : State} (h : step s = .next t) : Runs (k + 1) s u ↔ Runs k t u := by
  have : Sys2Proof.core.step s = .next t := h
  simp only [Runs, Host.Core.run]
  rw [this]

theorem runs_add {j k : Nat} {s t u : State} (h1 : Runs j s t) (h2 : Runs k t u) : Runs (j + k) s u := by
  induction j generalizing s with
  | zero => rw [runs_zero] at h1; subst h1; simpa using h2
  | succ j ih =>
    cases hs : step s with
    | next v =>
      rw [runs_succ hs] at h1
      rw [show j + 1 + k = (j + k) + 1 by omega, runs_succ hs]
      exact ih h1
    | fault r => cases r
    | refused r =>
      have : Sys2Proof.core.step s = .refused r := hs
      simp only [Runs, Host.Core.run] at h1
      rw [this] at h1
      cases h1

end Sys2Proof.Machine
end

