-- ==== Sys2Proof/Laws/Sequencer.lean ====
section
/-! SUPPORT. What each operation of the sequencer can do, said once: the issue of a micro-operation, a timeout, a wait
in which nothing is enabled; and the bus trace with one more event. -/

namespace Sys2Proof.Machine

theorem quiet_iff {s : State} :
    s.Quiet ↔ s.hung = false ∧ s.fault = .noFault ∧ s.busy = false ∧ s.latched = [] ∧ s.wst = .ready := by
  simp [State.Quiet, idleReady_iff, and_assoc]

/-- When the issue of `m` is allowed (R102). -/
theorem pre_noFault {m : MicroOp} {s : State} :
    pre m s = .noFault ↔ (m.isBus = true → s.on = true) ∧ legal m s.ts = true := by
  unfold pre
  cases m.isBus <;> cases s.on <;> cases legal m s.ts <;> simp

/-- The only faults of an issue (R102). -/
theorem pre_cases (m : MicroOp) (s : State) : pre m s = .noFault ∨ pre m s = .notEnabled ∨ pre m s = .seq := by
  unfold pre
  split
  · simp
  · split <;> simp

/-- Everything the issue of a micro-operation can do (R101, R102). -/
theorem issueOp_eq (m : MicroOp) (s : State) :
    issueOp m s =
      if pre m s = .noFault then
        (if m.isLocal then (performLocal m s).finish else (request (issued m s) s).arm (issued m s))
      else s.raiseFault (pre m s) := by
  unfold issueOp
  split
  · rename_i h; rw [if_pos h]
  · rename_i h; rw [if_neg h]

/-- When the timeout is enabled, and what it does (R168). -/
theorem timeoutStep_bus {s : State} {m : MicroOp} (hr : s.running = true) (hw : s.wst = .waiting m)
    (hm : m.isBus = true) :
    timeoutStep s =
      if s.params.errMode = .report ∧ s.params.pollTimeout ≤ s.elapsed then
        some { s with st := .timeout, cpl := s.cpl ++ [.timeout], fault := .timeout }
      else none := by
  have hb : s.busWaiting = true := by simp only [State.busWaiting, hw]; cases m <;> simp [MicroOp.isBus] at hm ⊢
  obtain ⟨h1, h2, h3, h4⟩ := running_iff.1 hr
  unfold timeoutStep
  simp only [hr, hb, Bool.true_and, Bool.and_eq_true, decide_eq_true_eq]
  congr 2
  simp [State.pushCpl, State.raiseFault, h2, h3]

/-- A wait in which neither a completion nor a timeout is enabled: nothing changes (R166). -/
theorem step_stuck {s : State} {m : MicroOp} (h : s.Waits m) (hc : completeStep s = none) (ho : timeoutStep s = none) :
    step s = .next s := by
  obtain ⟨hr, hw, hs⟩ := h
  have hn : s.cmdReady = false := by
    obtain ⟨h1, h2, h3, h4⟩ := running_iff.1 hr
    simp [State.cmdReady, h3, h4]
  simp only [step, advance, hs, defaultStep, blockStep_waiting hw, hc, ho, Option.or, hostStep]
  split
  · rfl
  · rw [hn]; rfl

/-- The trace with one more event. -/
theorem busReplay_snoc (l : List BusEvent) (e : BusEvent) :
    busReplay (l ++ [e]) = (busReplay l).bind fun t => busNext t e := by
  simp [busReplay]

/-- An acknowledge bit that is not 0 is 1. -/
theorem bit_eq_one {a : BitVec 1} (h : a ≠ 0) : a = 1 := by
  have h1 := a.isLt
  have h2 : a.toNat ≠ 0 := fun h' => h (BitVec.eq_of_toNat_eq h')
  apply BitVec.eq_of_toNat_eq
  simp only [BitVec.ofNat_eq_ofNat, BitVec.toNat_ofNat]
  omega

end Sys2Proof.Machine
end

