-- ==== Sys2Proof/Laws/Runs.lean ====
section
/-! SUPPORT. Runs of the micro-operation lists that commands are made of, every byte acknowledged. Each says what a
list does with other micro-operations behind it, so that runs of whole commands are chained with `runs_add`. -/

namespace Sys2Proof.Machine

/-- A three-byte write transaction (R121, R140). -/
theorem run_writeTxn (s : State) (dev : BitVec 7) (reg v : Byte) (rest : List MicroOp) (es : List EnvAct)
    (hr : s.running = true) (hw : s.wst = .ready) (hs : s.sched = []) (hu : s.uq = writeTxn dev reg v ++ rest)
    (ho : s.on = true) (ht : s.ts = .idle) (he : s.envQ = writeAnswers ++ es) :
    Runs 10 s { s with
      sen := false, pen := false, trstat := false, ackstat := 0, trn := v, t0 := s.tick, envQ := es
      bus := s.bus ++ writeTrace dev reg v, uq := rest, upc := s.upc + 5 } := by
  rw [running_iff] at hr
  rcases s
  simp only at hr hs hw hu ho ht he
  obtain ⟨rfl, rfl, rfl, rfl⟩ := hr
  subst hs ho he hw hu ht
  simp [Runs, Host.Core.run, core, step, advance, defaultStep, blockStep, State.running, State.alive, writeTxn, issueOp,
    pre, MicroOp.isBus, legal, MicroOp.isLocal, request, issued, State.arm, completeStep, writeAnswers, complete,
    State.emit, State.finish, State.answered, completeSend, tsAfterSend, addrW, writeTrace]
  bv_omega

/-- `cmdSeq(L)` of a list that is not empty (R140). -/
theorem run_cmdSeq (l : List Byte) (a : BitVec 7) (s : State) (rest : List MicroOp) (es : List EnvAct)
    (hr : s.running = true) (hw : s.wst = .ready) (hs : s.sched = []) (hu : s.uq = cmdSeq a l ++ rest)
    (ho : s.on = true) (ht : s.ts = .idle) (he : s.envQ = cmdSeqAnswers l.length ++ es) (hl : l ≠ []) :
    Runs (10 * l.length) s { s with
      sen := false, pen := false, trstat := false, ackstat := 0, trn := l.getLast hl, t0 := s.tick, envQ := es
      bus := s.bus ++ cmdSeqTrace a l, uq := rest, upc := s.upc + BitVec.ofNat 16 (5 * l.length) } := by
  induction l generalizing s with
  | nil => exact absurd rfl hl
  | cons c l ih =>
    have h1 := run_writeTxn s a ctrlCmd c (cmdSeq a l ++ rest) (cmdSeqAnswers l.length ++ es) hr hw hs
      (by rw [hu]; simp [cmdSeq, cmdTxn]) ho ht (by rw [he]; simp [cmdSeqAnswers, List.replicate_succ])
    by_cases hn : l = []
    · subst hn
      simp [cmdSeq, cmdSeqAnswers] at h1
      simpa [cmdSeqTrace] using h1
    · have h2 := ih { s with
          sen := false, pen := false, trstat := false, ackstat := 0, trn := c, t0 := s.tick
          envQ := cmdSeqAnswers l.length ++ es, bus := s.bus ++ writeTrace a ctrlCmd c, uq := cmdSeq a l ++ rest
          upc := s.upc + 5 }
        (by rw [running_iff] at hr ⊢; exact hr) hw hs rfl ho ht rfl hn
      have h3 := runs_add h1 h2
      rw [show 10 + 10 * l.length = 10 * (c :: l).length by simp; omega] at h3
      convert h3 using 2
      · simp [List.getLast_cons hn]
      · apply BitVec.eq_of_toNat_eq; simp; omega
      · simp [cmdSeqTrace]

/-- Framebuffer bytes sent one after the other (R144). -/
theorem run_sendFbs (is : List (BitVec 9)) (s : State) (rest : List MicroOp) (es : List EnvAct)
    (hr : s.running = true) (hw : s.wst = .ready) (hs : s.sched = []) (hu : s.uq = is.map .sendFb ++ rest)
    (ho : s.on = true) (ht : s.ts = .addrSentW ∨ s.ts = .dataSent)
    (he : s.envQ = List.replicate is.length (.txDone 0) ++ es) (hl : is ≠ []) :
    Runs (2 * is.length) s { s with
      trstat := false, ackstat := 0, trn := s.fbByte (is.getLast hl).toNat, t0 := s.tick, envQ := es, ts := .dataSent
      bus := s.bus ++ is.map (fun i => .tx (s.fbByte i.toNat) 0), uq := rest
      upc := s.upc + BitVec.ofNat 16 is.length } := by
  induction is generalizing s with
  | nil => exact absurd rfl hl
  | cons c l ih =>
    have h1 : Runs 2 s { s with
        trstat := false, ackstat := 0, trn := s.fbByte c.toNat, t0 := s.tick
        envQ := List.replicate l.length (.txDone 0) ++ es, ts := .dataSent
        bus := s.bus ++ [.tx (s.fbByte c.toNat) 0], uq := l.map .sendFb ++ rest, upc := s.upc + 1 } := by
      rw [running_iff] at hr
      rcases s
      simp only at hr hs hw hu ho ht he
      obtain ⟨rfl, rfl, rfl, rfl⟩ := hr
      subst hs ho he hw hu
      rcases ht with rfl | rfl <;>
        simp [Runs, Host.Core.run, core, step, advance, defaultStep, blockStep, State.running, State.alive, issueOp, pre,
          MicroOp.isBus, legal, MicroOp.isLocal, request, issued, State.arm, completeStep, complete, State.emit,
          State.finish, State.answered, completeSend, tsAfterSend, State.fbByte, List.replicate_succ]
    by_cases hn : l = []
    · subst hn
      simpa using h1
    · have h2 := ih { s with
          trstat := false, ackstat := 0, trn := s.fbByte c.toNat, t0 := s.tick
          envQ := List.replicate l.length (.txDone 0) ++ es, ts := .dataSent
          bus := s.bus ++ [.tx (s.fbByte c.toNat) 0], uq := l.map .sendFb ++ rest, upc := s.upc + 1 }
        (by rw [running_iff] at hr ⊢; exact hr) hw hs rfl ho (.inr rfl) rfl hn
      have h3 := runs_add h1 h2
      rw [show 2 + 2 * l.length = 2 * (c :: l).length by simp; omega] at h3
      convert h3 using 2
      · simp [List.getLast_cons hn, State.fbByte]
      · apply BitVec.eq_of_toNat_eq; simp; omega
      · simp [State.fbByte]

/-- The receive cycles of a burst read: ACK for every byte except the last (R123). -/
theorem run_burst (ds : List Byte) (d : Byte) (s : State) (rest : List MicroOp) (es : List EnvAct)
    (hr : s.running = true) (hw : s.wst = .ready) (hs : s.sched = [])
    (hu : s.uq = recvAcked ds.length ++ ([.recv, .ack 1] ++ rest)) (ho : s.on = true)
    (ht : s.ts = .addrSentR ∨ s.ts = .recvAcked) (he : s.envQ = burstAnswers (ds ++ [d]) ++ es) :
    Runs (4 * (ds.length + 1)) s { s with
      rcen := false, acken := false, ackdt := 1, rbf := false, rcv := d, t0 := s.tick, envQ := es, ts := .recvNacked
      bus := s.bus ++ burstTrace (ds ++ [d]), rsp := s.rsp ++ (ds ++ [d]), uq := rest
      upc := s.upc + BitVec.ofNat 16 (2 * (ds.length + 1)) } := by
  induction ds generalizing s with
  | nil =>
    rw [running_iff] at hr
    rcases s
    simp only [List.length_nil, recvAcked, List.nil_append, burstAnswers, List.flatMap_cons, List.flatMap_nil]
      at hr hs hw hu ho ht he
    obtain ⟨rfl, rfl, rfl, rfl⟩ := hr
    subst hs ho he hw hu
    rcases ht with rfl | rfl <;>
      simp [Runs, Host.Core.run, core, step, advance, defaultStep, blockStep, State.running, State.alive, issueOp, pre,
        MicroOp.isBus, legal, MicroOp.isLocal, request, issued, State.arm, completeStep, complete, State.emit,
        State.finish, State.answered, tsAfterAck, State.pushRsp, burstTrace] <;>
      bv_omega
  | cons c l ih =>
    have h1 : Runs 4 s { s with
        rcen := false, acken := false, ackdt := 0, rbf := false, rcv := c, t0 := s.tick
        envQ := burstAnswers (l ++ [d]) ++ es, ts := .recvAcked, bus := s.bus ++ [.rx c, .ma 0]
        rsp := s.rsp ++ [c], uq := recvAcked l.length ++ ([.recv, .ack 1] ++ rest), upc := s.upc + 2 } := by
      rw [running_iff] at hr
      have hb : burstAnswers (c :: l ++ [d]) = .rxDone c :: .ackDone :: burstAnswers (l ++ [d]) := by simp [burstAnswers]
      rw [hb] at he
      rcases s
      simp only at hr hs hw hu ho ht he
      obtain ⟨rfl, rfl, rfl, rfl⟩ := hr
      subst hs ho he hw hu
      rcases ht with rfl | rfl <;>
        simp [Runs, Host.Core.run, core, step, advance, defaultStep, blockStep, State.running, State.alive, issueOp, pre,
          MicroOp.isBus, legal, MicroOp.isLocal, request, issued, State.arm, completeStep, complete, State.emit,
          State.finish, State.answered, tsAfterAck, State.pushRsp, recvAcked] <;>
        bv_omega
    have h3 := runs_add h1 (ih _ (by rw [running_iff] at hr ⊢; exact hr) hw hs rfl ho (.inr rfl) rfl)
    rw [show 4 + 4 * (l.length + 1) = 4 * ((c :: l).length + 1) by simp; omega] at h3
    convert h3 using 1
    have hb : burstTrace (c :: l ++ [d]) = .rx c :: .ma 0 :: burstTrace (l ++ [d]) := by cases l <;> rfl
    simp only [State.mk.injEq, true_and, and_true, hb]
    refine ⟨?_, ?_, ?_⟩
    · apply BitVec.eq_of_toNat_eq; simp; omega
    · simp
    · simp

end Sys2Proof.Machine
end

