-- ==== Sys2Proof/Tests/Slice0.lean ====
section
/-! SUPPORT. The model's own tests. Expected values come from spec/95_test_vectors.md, whose vector each test names,
or by hand from the rule named. After the tests, the witnesses: for every obligation with hypotheses, a concrete
state and operands that meet them together. -/

namespace Sys2Proof.Tests

open Sys2Proof Sys2Proof.Machine

/-! ### Small states -/

/-- A field of the next state, if there is one. -/
def look {α : Type} (o : Host.Outcome State Fault Refusal) (f : State → α) : Option α :=
  match o with
  | .next t => some (f t)
  | .fault _ => none
  | .refused _ => none

/-- Short parameters: `GLYPH(0x41)` as fixture `GA`. -/
def paramsOf (mode : ErrMode) : Params :=
  { errMode := mode, pollTimeout := 1000, brgValue := 0x4F, settleTicks := 3, oledAddr7 := 0x3C
    initSeq := [0xAE, 0xAF], windowSeq := [0x22, 0x00]
    glyph := [(325, 0x7E), (326, 0x11), (327, 0x11), (328, 0x11), (329, 0x7E)] }

/-- Fixture `GT` for the codes 0x41 and 0x42. -/
def paramsGT : Params :=
  { paramsOf .legacyHang with
    glyph := [(325, 0x41), (326, 0x42), (327, 0x43), (328, 0x44), (329, 0x45)]
      ++ [(330, 0x42), (331, 0x43), (332, 0x44), (333, 0x45), (334, 0x46)] }

/-- Quiet, the engine enabled. -/
def quiet (mode : ErrMode) : State := { State.reset with on := true, params := paramsOf mode }

/-- Busy with `uq` before its first issue. -/
def headOf (mode : ErrMode) (t : TxState) (q : List MicroOp) : State := { quiet mode with ts := t, busy := true, uq := q }

/-- Waiting for `m`, with one completion to come. -/
def waitOf (mode : ErrMode) (t : TxState) (m : MicroOp) (es : List EnvAct) : State :=
  { headOf mode t [m] with wst := .waiting m, envQ := es }

/-! ### Well-formedness -/

theorem test_wf_message_length :
    (Instr.oledMsg 0 0 (List.replicate 256 0x41)).wf = false ∧ (Instr.oledMsg 0 0 (List.replicate 255 0x41)).wf = true := by
  decide +kernel

theorem test_wf_params :
    (paramsOf .report).wf = true ∧ { paramsOf .report with pollTimeout := 0 }.wf = false
    ∧ { paramsOf .report with initSeq := List.replicate 256 0 }.wf = false
    ∧ { paramsOf .report with windowSeq := List.replicate 256 0 }.wf = false
    ∧ { paramsOf .report with glyph := [(1280, 0)] }.wf = false
    ∧ { paramsOf .report with glyph := [(5, 0), (4, 0)] }.wf = false
    ∧ { paramsOf .report with glyph := [(5, 0), (5, 0)] }.wf = false := by
  decide +kernel

theorem test_memWf : memWf [(0, 1), (511, 1)] = true ∧ memWf [(512, 1)] = false ∧ memWf [(3, 1), (3, 1)] = false := by
  decide

/-! ### Encoding: VX1 to VX20, VX30 to VX39 -/

/-- VX1 to VX7. -/
theorem test_decode_primitives :
    decode [0x10000000] = .instr .i2cSetup [] ∧ decode [0x11000000] = .instr .i2cStart []
    ∧ decode [0x12000000] = .instr .i2cRestart [] ∧ decode [0x13000078] = .instr (.i2cSend 0x78) []
    ∧ decode [0x14000000] = .instr .i2cRecv [] ∧ decode [0x15000000] = .instr (.i2cAck 0) []
    ∧ decode [0x15000001] = .instr (.i2cAck 1) [] ∧ decode [0x16000000] = .instr .i2cStop [] := by
  decide

/-- VX8 to VX11. -/
theorem test_decode_composites :
    decode [0x18200A80] = .instr (.i2cWrreg 0x20 0x0A 0x80) [] ∧ decode [0x187FFFFF] = .instr (.i2cWrreg 0x7F 0xFF 0xFF) []
    ∧ decode [0x196B0F00] = .instr (.i2cRdreg 0x6B 0x0F) [] ∧ decode [0x1A6B2203] = .instr (.i2cRdmult 0x6B 0x22 3) [] := by
  decide

/-- VX12 to VX19. -/
theorem test_decode_display :
    decode [0x20000000] = .instr .oledSetup [] ∧ decode [0x210000AF] = .instr (.oledCmd 0xAF) []
    ∧ decode [0x22030A01] = .instr (.oledPixel 3 10 1) [] ∧ decode [0x23000000] = .instr .oledClear []
    ∧ decode [0x24000000] = .instr .oledUpdate [] ∧ decode [0x25000041] = .instr (.oledLetter 0 0 0x41) []
    ∧ decode [0x26760002, 0x41, 0x42] = .instr (.oledMsg 118 0 [0x41, 0x42]) []
    ∧ decode [0x26000000] = .instr (.oledMsg 0 0 []) [] := by
  decide

/-- The same words out of the encoder. -/
theorem test_encode :
    encode (.i2cWrreg 0x20 0x0A 0x80) = [0x18200A80] ∧ encode (.i2cRdreg 0x6B 0x0F) = [0x196B0F00]
    ∧ encode (.i2cRdmult 0x6B 0x22 3) = [0x1A6B2203] ∧ encode (.oledCmd 0xAF) = [0x210000AF]
    ∧ encode (.oledPixel 3 10 1) = [0x22030A01] ∧ encode (.oledLetter 0 0 0x41) = [0x25000041]
    ∧ encode (.oledMsg 118 0 [0x41, 0x42]) = [0x26760002, 0x41, 0x42] := by
  decide

/-- VX30 to VX36, VX38, VX39: illegal. VX37 is a command. -/
theorem test_decode_refused :
    ([0x00000000, 0x17000000, 0x1B000000, 0x27000000, 0xFF000000, 0x10000001, 0x13000178, 0x15000002, 0x18A00A80,
      0x196B0F01, 0x1A800000] : List Word).all (fun w => decide (decode [w] = .illegal)) = true
    ∧ decode [0x26000001, 0x141] = .illegal ∧ decode [0x26000001] = .more
    ∧ decode [0x1A6B2200] = .instr (.i2cRdmult 0x6B 0x22 0) [] := by
  decide

/-- A row of the table as one number: bits above `nbits` are 0, so a message's payload words are 0. -/
theorem test_table_word :
    decodeTableWord 32 0x13000078 = some (.i2cSend 0x78) ∧ decodeTableWord 32 0x26000002 = some (.oledMsg 0 0 [0, 0])
    ∧ decodeTableWord 96 0x000000420000004126760002 = some (.oledMsg 118 0 [0x41, 0x42])
    ∧ decodeTableWord 32 0x17000000 = none := by
  decide +kernel

/-! ### Accepting (R87) and the command port -/

theorem test_fetch_send :
    look (step (State.reset.withFetchWord 32 0x13000078)) (fun t => (t.uq, t.busy, t.upc)) = some ([.send 0x78], true, 0) := by
  decide +kernel

theorem test_fetch_message :
    look (step (State.reset.withFetchWord 32 0x26000002)) (fun t => (t.uq, t.latched, t.busy))
      = some ([.fbDraw (.message 0 0 [0, 0])], [], true) := by
  decide +kernel

/-- VX30: `FAULT = 1`, `busy = 1`. -/
theorem test_illegal_word :
    look (step { State.reset with hostQ := [0x00000000] }) (fun t => (t.fault, t.busy, t.uq, t.hostQ))
      = some (.illegalCmd, true, [], []) := by
  decide

/-- VX37: `FAULT = 2`. -/
theorem test_rdmult_zero :
    look (step { State.reset with hostQ := [0x1A6B2200] }) (fun t => (t.fault, t.busy, t.uq)) = some (.operand, true, []) := by
  decide

/-- Log entry 12: `upc` and `st` of the command before while a message is collected, 0 and `OK` at its accept. -/
theorem test_payload_keeps_progress :
    look (step { State.reset with upc := 3, st := .nack, hostQ := [0x26000001] }) (fun t => (t.upc, t.st, t.busy))
      = some (3, .nack, true)
    ∧ look (step { State.reset with upc := 3, st := .nack, latched := [0x26000001], busy := true, hostQ := [0x41] })
        (fun t => (t.upc, t.st, t.busy)) = some (0, .ok, true) := by
  decide

/-- R86: a header that lacks a payload word is latched and the block is busy; the last payload word completes it. -/
theorem test_payload :
    look (step { State.reset with hostQ := [0x26760002] }) (fun t => (t.latched, t.busy, t.cmdReady, t.fault))
      = some ([0x26760002], true, true, .noFault)
    ∧ look (step { State.reset with latched := [0x26760002, 0x41], busy := true, hostQ := [0x42] }) (fun t => (t.uq, t.latched))
      = some ([.fbDraw (.message 118 0 [0x41, 0x42])], []) := by
  decide

/-- The first micro-operation and the number of them: R121, R122, R123, R143, R145 with the short parameters. -/
theorem test_expansions :
    look (exec (.i2cWrreg 0x20 0x0A 0x80) (quiet .report)) (fun t => t.uq)
      = some [.start, .send 0x40, .send 0x0A, .send 0x80, .stop]
    ∧ look (exec (.i2cRdreg 0x6B 0x0F) (quiet .report)) (fun t => t.uq)
      = some [.start, .send 0xD6, .send 0x0F, .restart, .send 0xD7, .recv, .ack 1, .stop]
    ∧ look (exec (.i2cRdmult 0x6B 0x22 3) (quiet .report)) (fun t => t.uq)
      = some [.start, .send 0xD6, .send 0x22, .restart, .send 0xD7, .recv, .ack 0, .recv, .ack 0, .recv, .ack 1, .stop]
    ∧ look (exec (.oledCmd 0xAF) (quiet .report)) (fun t => t.uq)
      = some [.start, .send 0x78, .send 0x00, .send 0xAF, .stop]
    ∧ look (exec .oledUpdate (quiet .report)) (fun t => t.uq.take 14)
      = some [.start, .send 0x78, .send 0x00, .send 0x22, .stop, .start, .send 0x78, .send 0x00, .send 0x00, .stop,
          .start, .send 0x78, .send 0x40, .sendFb 0]
    ∧ look (exec .oledSetup (quiet .report)) (fun t => (t.uq.take 4, (t.uq.drop 10).take 3))
      = some ([.delay 3, .start, .send 0x78, .send 0x00], [.stop, .fbClear, .start]) := by
  decide +kernel

/-! ### Primitives: VA1 to VA21 -/

/-- VA1, with `B = 0x4F`. -/
theorem test_setup :
    look (step { headOf .report .idle [.enable] with on := false }) (fun t => (t.on, t.brg, t.uq, csrView t 0))
      = some (true, 0x4F, [], 0x00008000) := by
  decide

/-- VA2: during the wait, and after. -/
theorem test_start :
    look (step (headOf .report .idle [.start])) (fun t => (csrView t 0, t.wst)) = some (0x00008001, .waiting .start)
    ∧ look (step { waitOf .report .idle .start [.startDone] with sen := true }) (fun t => (t.sen, t.bus, t.ts))
      = some (false, [.s], .startSent) := by
  decide

/-- VA3 and VA4: during the wait, and the direction bit. -/
theorem test_send_address :
    look (step (headOf .report .startSent [.send 0x78])) (fun t => (csrView t 3, csrView t 1)) = some (0x78, 0x00004000)
    ∧ look (step (waitOf .report .startSent (.send 0x78) [.txDone 0])) (fun t => (t.bus, t.ts))
      = some ([.tx 0x78 0], .addrSentW)
    ∧ look (step (waitOf .report .startSent (.send 0x79) [.txDone 0])) (fun t => t.ts) = some .addrSentR := by
  decide

/-- VA5, VA6, VA8, VA9. -/
theorem test_send_data :
    look (step (waitOf .report .addrSentW (.send 0x00) [.txDone 0])) (fun t => t.ts) = some .dataSent
    ∧ look (step (waitOf .report .dataSent (.send 0xAF) [.txDone 0])) (fun t => t.ts) = some .dataSent
    ∧ look (step (waitOf .report .restartSent (.send 0xD7) [.txDone 0])) (fun t => t.ts) = some .addrSentR
    ∧ look (step (waitOf .report .restartSent (.send 0xD6) [.txDone 0])) (fun t => t.ts) = some .addrSentW := by
  decide

/-- VA7. -/
theorem test_restart :
    look (step (waitOf .report .dataSent .restart [.restartDone])) (fun t => (t.bus, t.ts)) = some ([.sr], .restartSent) := by
  decide

/-- VA10. -/
theorem test_recv :
    look (step (waitOf .report .addrSentR .recv [.rxDone 0x5A])) (fun t => (t.rsp, t.bus, t.rcv, t.rbf, t.ts))
      = some ([0x5A], [.rx 0x5A], 0x5A, false, .dataRecv) := by
  decide

/-- VA11 and VA13. -/
theorem test_ack :
    look (step (waitOf .report .dataRecv (.ack 0) [.ackDone])) (fun t => (t.bus, t.ts)) = some ([.ma 0], .recvAcked)
    ∧ look (step { waitOf .report .dataRecv (.ack 1) [.ackDone] with ackdt := 1, acken := true })
        (fun t => (t.bus, t.ts, csrView t 0)) = some ([.ma 1], .recvNacked, 0x00008020) := by
  decide

/-- VA14. -/
theorem test_stop :
    look (step (headOf .report .recvNacked [.stop])) (fun t => (t.pen, csrView t 5)) = some (true, 0x00000039)
    ∧ look (step { waitOf .report .stopSent .stop [.stopDone] with pen := true }) (fun t => (t.pen, t.bus, t.ts))
      = some (false, [.p], .idle) := by
  decide

/-- VA17. -/
theorem test_nack_hang :
    look (step (waitOf .legacyHang .startSent (.send 0x78) [.txDone 1]))
        (fun t => (t.bus, t.ackstat, t.hung, t.cpl, csrView t 5))
      = some ([.tx 0x78 1], 1, true, [], 0x00000051) := by
  decide

/-- VA18, and VB9's drop of the remainder. -/
theorem test_nack_report :
    look (step (waitOf .report .startSent (.send 0x78) [.txDone 1])) (fun t => (t.ts, t.st, t.hung, t.uq))
      = some (.nacked, .nack, false, [])
    ∧ look (step { waitOf .report .addrSentW (.send 0x0A) [.txDone 1] with uq := [.send 0x0A, .send 0x80, .stop] })
        (fun t => (t.ts, t.uq)) = some (.nacked, [.stop]) := by
  decide

/-- VA21: the stuck wait. -/
theorem test_stuck :
    look (step { waitOf .legacyHang .idle .start [] with sen := true }) (fun t => (csrView t 5, t.sen, t.bus))
      = some (0x00000030, true, []) := by
  decide

/-- VS1, VS2, VS5, VS7 and the not-enabled faults. -/
theorem test_sequence_faults :
    look (step (headOf .report .idle [.stop])) (fun t => (t.fault, t.bus, t.pen)) = some (.seq, [], false)
    ∧ look (step (headOf .report .startSent [.enable])) (fun t => t.fault) = some .seq
    ∧ look (step (headOf .report .recvAcked [.stop])) (fun t => t.fault) = some .seq
    ∧ look (step (headOf .report .dataSent [.start])) (fun t => t.fault) = some .seq
    ∧ look (step { headOf .report .dataSent [.start] with on := false }) (fun t => t.fault) = some .notEnabled := by
  decide

/-! ### Drawing: VF, VG, VM -/

/-- VF5, VF8, VF9, VF12. -/
theorem test_pixel :
    drawOn 0 (paramsOf .report) [(131, 0)] (.pixel 3 10 1) = [(131, 0x04)]
    ∧ drawOn 0 (paramsOf .report) [(131, 0xFF)] (.pixel 3 10 0) = [(131, 0xFB)]
    ∧ drawOn 0 (paramsOf .report) [(131, 0xFF)] (.pixel 3 10 2) = [(131, 0xFB)]
    ∧ drawOn 0 (paramsOf .report) [(128, 0)] (.pixel 128 0 1) = [(128, 0)]
    ∧ drawOn 0 (paramsOf .report) [(0, 0)] (.pixel 0 32 1) = [(0, 0)] := by
  decide

/-- VF13, of the one byte a state lists and of one it does not. -/
theorem test_clear :
    look (step { headOf .report .idle [.fbClear] with fb := [(131, 0xFF)] }) (fun t => (t.fbByte 131, t.fbByte 511))
      = some (0, 0) := by
  decide +kernel

/-- VG4: straddling two pages, the bits outside the cell kept. -/
theorem test_letter_straddles :
    drawOn 0 (paramsOf .report)
        [(10, 0xFF), (11, 0xFF), (12, 0xFF), (13, 0xFF), (14, 0xFF), (138, 0xFF), (139, 0xFF), (140, 0xFF), (141, 0xFF),
          (142, 0xFF)] (.letter 10 4 0x41)
      = [(10, 0xEF), (11, 0x1F), (12, 0x1F), (13, 0x1F), (14, 0xEF), (138, 0xF7), (139, 0xF1), (140, 0xF1), (141, 0xF1),
          (142, 0xF7)] := by
  decide +kernel

/-- VG7: dropped at the right and the lower edge. -/
theorem test_letter_corner :
    drawOn 0 (paramsOf .report) [(0, 0), (509, 0), (510, 0), (511, 0)] (.letter 125 27 0x41)
      = [(0, 0), (509, 0xF0), (510, 0x88), (511, 0x88)] := by
  decide +kernel

/-- VM2: the wrap between two characters. -/
theorem test_message_wraps :
    drawOn 0 paramsGT
        [(118, 0), (119, 0), (120, 0), (121, 0), (122, 0), (123, 0), (128, 0), (129, 0), (130, 0), (131, 0), (132, 0),
          (133, 0)] (.message 118 0 [0x41, 0x42])
      = [(118, 0x41), (119, 0x42), (120, 0x43), (121, 0x44), (122, 0x45), (123, 0), (128, 0x42), (129, 0x43),
          (130, 0x44), (131, 0x45), (132, 0x46), (133, 0)] := by
  decide +kernel

/-- VM5, VM10: a start at 123 wraps although the glyph would fit; below the bottom edge nothing is drawn. -/
theorem test_message_edges :
    drawOn 0 paramsGT [(127, 0), (128, 0), (129, 0), (130, 0), (131, 0), (132, 0)] (.message 123 0 [0x41])
      = [(127, 0), (128, 0x41), (129, 0x42), (130, 0x43), (131, 0x44), (132, 0x45)]
    ∧ drawOn 0 paramsGT [(0, 0), (128, 0)] (.message 125 255 [0x41]) = [(0, 0), (128, 0)] := by
  decide +kernel

/-! ### The pipeline's own micro-operations -/

/-- R144: the byte of `SENDFB` is read at its issue. -/
theorem test_sendFb :
    look (step { headOf .report .dataSent [.sendFb 131] with fb := [(131, 0x04)] }) (fun t => (t.trn, t.wst, t.trstat))
      = some (0x04, .waiting (.send 0x04), true) := by
  decide

/-- VQ9, and the end of a delay (R145). -/
theorem test_delay :
    look (step { waitOf .report .idle (.delay 3) [] with t0 := 5, tick := 7 }) (fun t => (t.wst, csrView t 0))
      = some (.waiting (.delay 3), 0x00008000)
    ∧ look (step { waitOf .report .idle (.delay 3) [] with t0 := 5, tick := 8 }) (fun t => (t.wst, t.uq)) = some (.ready, []) := by
  decide

/-! ### Timeout and reset: VT1 to VT7 -/

/-- VT1 and VT2. -/
theorem test_timeout :
    look (step { waitOf .report .idle .start [] with sen := true, t0 := 50, tick := 1050 })
        (fun t => (t.cpl, csrView t 6, t.sen, t.ts, t.bus)) = some ([.timeout], 5, true, .idle, [])
    ∧ look (step { waitOf .report .idle .start [] with sen := true, t0 := 50, tick := 1049 }) (fun t => (t.cpl, t.fault))
      = some ([], .noFault) := by
  decide

/-- VT3 and VT4. -/
theorem test_timeout_wraps :
    look (step { waitOf .report .idle .start [] with t0 := 0xFFFFFF00, tick := 0x000002E8 }) (fun t => t.fault)
      = some .timeout
    ∧ look (step { waitOf .legacyHang .idle .start [] with t0 := 50, tick := 5000 }) (fun t => t.fault) = some .noFault := by
  decide

/-- VT5. -/
theorem test_reset_hung :
    look (step { headOf .legacyHang .startSent [.send 0x78] with
        hung := true, bus := [.s, .tx 0x78 1], cpl := [.ok], sched := [.reset] })
        (fun t => (t.bus, t.hung, t.on, t.ts, t.cpl)) = some ([.s, .tx 0x78 1, .rst], false, false, .idle, [.ok]) := by
  decide

/-- VT6 and VT7. -/
theorem test_reset_idle :
    look (step { quiet .report with sched := [.reset] }) (fun t => t.bus) = some []
    ∧ look (step { waitOf .report .idle (.delay 3) [] with sched := [.reset] }) (fun t => (t.bus, t.cpl, t.busy))
      = some ([], [], false) := by
  decide

/-- R30: a view with every bit of `I2C_CON` that can be 1 in some state. -/
theorem test_csr_con :
    csrView { quiet .report with sen := true, rsen := true, pen := true, rcen := true, acken := true, ackdt := 1 } 0
      = 0x0000803F := by
  decide

/-! ### Witnesses: a concrete state and operands for the hypotheses of each obligation, clause by clause -/

/-- Quiet, with a transaction state and the completions to come. -/
def quietAt (mode : ErrMode) (t : TxState) (es : List EnvAct) : State := { quiet mode with ts := t, envQ := es }

/-- Ready, with words to come. -/
def wordsOf (latched ws : List Word) : State :=
  { quiet .report with latched := latched, busy := !latched.isEmpty, hostQ := ws }

theorem witness_DecodeOfEncode :
    (Instr.oledMsg 0 0 (List.replicate 255 0x41)).wf = true ∧ (Instr.oledMsg 0 0 []).wf = true
    ∧ (Instr.i2cWrreg 0x7F 0xFF 0xFF).wf = true := by
  decide +kernel

theorem witness_DecodedIsEncoded :
    decode [0x26760002, 0x41, 0x42, 0x07] = .instr (.oledMsg 118 0 [0x41, 0x42]) [0x07] := by
  decide

theorem witness_ReservedBitsAreIllegal :
    (∀ w ∈ [(0x10000001 : Word), 0x24800000],
      opField w ∈ ([0x10, 0x11, 0x12, 0x14, 0x16, 0x20, 0x23, 0x24] : List Byte) ∧ w.extractLsb' 0 24 ≠ 0)
    ∧ (∀ w ∈ [(0x13000100 : Word), 0x21800000], opField w ∈ ([0x13, 0x21] : List Byte) ∧ w.extractLsb' 8 16 ≠ 0)
    ∧ (∀ w ∈ [(0x15000002 : Word), 0x15800000], opField w = 0x15 ∧ w.extractLsb' 1 23 ≠ 0)
    ∧ (∀ w ∈ [(0x18A00A80 : Word), 0x1A800000], opField w ∈ ([0x18, 0x1A] : List Byte) ∧ w.getLsbD 23 = true)
    ∧ (∀ w ∈ [(0x196B0F01 : Word), 0x19800000], opField w = 0x19 ∧ (w.getLsbD 23 = true ∨ w.extractLsb' 0 8 ≠ 0))
    ∧ opField 0x26000001 = 0x26 ∧ ((0x26000001 : Word).extractLsb' 0 8).toNat ≤ [(0x141 : Word)].length
    ∧ ∃ p ∈ [(0x141 : Word)].take ((0x26000001 : Word).extractLsb' 0 8).toNat, p.extractLsb' 8 24 ≠ 0 := by
  simp [opField]

theorem witness_ReservedBitsAreIllegal_at_accept :
    ((wordsOf [] [0x10000001]).cmdReady = true ∧ (wordsOf [] [0x10000001]).sched = []
      ∧ (wordsOf [] [0x10000001]).hostQ = [0x10000001]
      ∧ decode ((wordsOf [] [0x10000001]).latched ++ [0x10000001]) = .illegal)
    ∧ ((wordsOf [0x26000001] [0x141]).cmdReady = true
      ∧ decode ((wordsOf [0x26000001] [0x141]).latched ++ [0x141]) = .illegal) := by
  decide

theorem witness_UnknownOpcodesAreIllegal :
    ∀ w ∈ [(0x00000000 : Word), 0x17000000, 0x1B000000, 0x27000000, 0xFF000000],
      opField w ∉ ([0x10, 0x11, 0x12, 0x13, 0x14, 0x15, 0x16, 0x18, 0x19, 0x1A, 0x20, 0x21, 0x22, 0x23, 0x24, 0x25,
        0x26] : List Byte) := by
  simp [opField]

theorem witness_UnknownOpcodesAreIllegal_at_accept :
    (wordsOf [] [0x17000000]).idleReady = true ∧ (wordsOf [] [0x17000000]).latched = []
    ∧ (wordsOf [] [0x17000000]).sched = [] ∧ (wordsOf [] [0x17000000]).hostQ = [0x17000000] := by
  decide

theorem witness_MessagePayloadIsCollected :
    ([] : List Byte).length = (0 : Byte).toNat ∧ [(0x41 : Byte), 0x42].length = (2 : Byte).toNat
    ∧ (List.replicate 255 (0x41 : Byte)).length = (255 : Byte).toNat
    ∧ ([] : List Word).length < (1 : Byte).toNat
    ∧ ((wordsOf [] [0x26000001]).cmdReady = true ∧ (wordsOf [] [0x26000001]).sched = []
      ∧ decode ((wordsOf [] [0x26000001]).latched ++ [0x26000001]) = .more)
    ∧ ((wordsOf [0x26000002] [0x41]).cmdReady = true
      ∧ decode ((wordsOf [0x26000002] [0x41]).latched ++ [0x41]) = .more)
    ∧ ((wordsOf [0x26000001] []).latched ≠ [] ∧ (wordsOf [0x26000001] []).sched = []
      ∧ (wordsOf [0x26000001] []).hostQ = []) := by
  decide +kernel

theorem witness_StepRunsTheDecodedCommand :
    ((wordsOf [] [0x13000078]).cmdReady = true ∧ (wordsOf [] [0x13000078]).sched = []
      ∧ decode ((wordsOf [] [0x13000078]).latched ++ [0x13000078]) = .instr (.i2cSend 0x78) [])
    ∧ ((wordsOf [0x26000001] [0x41]).cmdReady = true ∧ (wordsOf [0x26000001] [0x41]).sched = []
      ∧ decode ((wordsOf [0x26000001] [0x41]).latched ++ [0x41]) = .instr (.oledMsg 0 0 [0x41]) []) := by
  decide

theorem witness_AcceptLoadsTheExpansion :
    (quiet .report).idleReady = true ∧ (∀ dev reg, Instr.i2cRdmult 0x6B 0x22 1 ≠ .i2cRdmult dev reg 0)
    ∧ ∀ dev reg, Instr.oledSetup ≠ .i2cRdmult dev reg 0 := by
  refine ⟨by decide, fun dev reg h => ?_, fun dev reg h => ?_⟩ <;> simp at h

theorem witness_WordTakenOnlyWhenReady :
    ({ headOf .report .idle [.start] with sched := [.host], hostQ := [0x16000000] }.cmdReady = false)
    ∧ ∃ t, step (wordsOf [] [0x13000078]) = .next t ∧ t.hostQ ≠ (wordsOf [] [0x13000078]).hostQ :=
  ⟨by decide, _, rfl, by decide⟩

theorem witness_BusyBlockTakesNoCommand :
    (headOf .report .idle [.start]).idleReady = false ∧ { quiet .report with hung := true }.idleReady = false
    ∧ { quiet .report with fault := .seq }.idleReady = false := by
  decide

theorem witness_AcceptFrame :
    (∃ t, exec (.oledPixel 127 31 1) (quiet .report) = .next t)
    ∧ (∃ t, exec (.i2cRdmult 0 0 0) (quiet .report) = .next t) ∧ ∃ t, exec .i2cStop (headOf .report .idle []) = .next t :=
  ⟨⟨_, rfl⟩, ⟨_, rfl⟩, ⟨_, rfl⟩⟩

theorem witness_ZeroCountIsRefused : (quiet .report).idleReady = true := by decide

/-- At the head of the queue with the engine off; with it on, in a state outside the legal ones. -/
theorem witness_faults :
    (∀ m ∈ [MicroOp.start, .send 0, .sendFb 511, .restart, .recv, .ack 1, .stop],
      { headOf .report .dataSent [m] with on := false }.AtHead m [])
    ∧ (∀ q ∈ [(MicroOp.start, TxState.startSent), (.send 0, .idle), (.sendFb 511, .addrSentR), (.restart, .startSent),
        (.recv, .dataRecv), (.ack 1, .recvAcked), (.stop, .recvAcked), (.enable, .nacked)],
      (headOf .report q.2 [q.1]).AtHead q.1 [] ∧ (headOf .report q.2 [q.1]).on = true)
    ∧ TxState.startSent ∉ [TxState.idle]
    ∧ TxState.idle ∉ [TxState.startSent, .addrSentW, .dataSent, .restartSent]
    ∧ TxState.addrSentR ∉ [TxState.startSent, .addrSentW, .dataSent, .restartSent]
    ∧ TxState.startSent ∉ [TxState.addrSentW, .dataSent, .recvNacked, .nacked]
    ∧ TxState.recvAcked ∉ [TxState.addrSentW, .dataSent, .recvNacked, .nacked]
    ∧ TxState.dataRecv ∉ [TxState.addrSentR, .recvAcked] ∧ TxState.recvAcked ∉ [TxState.dataRecv]
    ∧ TxState.nacked ≠ .idle := by
  decide

/-- The stuck wait, in both modes; in `REPORT` at the last tick before the timeout. -/
theorem witness_stuck :
    ∀ m ∈ [MicroOp.start, .send 0x78, .restart, .recv, .ack 1, .stop],
      (waitOf .legacyHang .idle m []).Waits m ∧ (waitOf .legacyHang .idle m []).envQ = []
      ∧ (waitOf .legacyHang .idle m []).NotTimedOut
      ∧ { waitOf .report .idle m [] with t0 := 50, tick := 1049 }.Waits m
      ∧ { waitOf .report .idle m [] with t0 := 50, tick := 1049 }.NotTimedOut := by
  decide

theorem witness_PreconditionsAreChecked :
    (∀ m ∈ [MicroOp.fbClear, .fbDraw (.pixel 0 0 1), .delay 0], { headOf .report .dataSent [m] with on := false }.AtHead m [])
    ∧ ∃ t, step { headOf .report .dataSent [.delay 0] with on := false } = .next t :=
  ⟨by decide, _, rfl⟩

theorem witness_SetupFollowsItsRule :
    ({ quiet .report with on := false }.Quiet ∧ { quiet .report with on := false }.sched = []
      ∧ { quiet .report with on := false }.ts = .idle)
    ∧ { headOf .report .idle [.enable] with on := false }.AtHead .enable [] := by
  decide

theorem witness_StartFollowsItsRule :
    ((quietAt .report .idle [.startDone]).Quiet ∧ (quietAt .report .idle [.startDone]).sched = []
      ∧ (quietAt .report .idle [.startDone]).on = true ∧ (quietAt .report .idle [.startDone]).ts = .idle
      ∧ (quietAt .report .idle [.startDone]).envQ = [.startDone])
    ∧ ((headOf .report .idle [.start]).AtHead .start [] ∧ (headOf .report .idle [.start]).on = true)
    ∧ (waitOf .report .idle .start [.startDone]).Waits .start := by
  decide

theorem witness_RestartFollowsItsRule :
    (∀ t ∈ [TxState.addrSentW, .dataSent, .recvNacked, .nacked],
      (quietAt .report t [.restartDone]).Quiet ∧ (quietAt .report t [.restartDone]).sched = []
      ∧ (quietAt .report t [.restartDone]).on = true ∧ (headOf .report t [.restart]).AtHead .restart [])
    ∧ (waitOf .report .nacked .restart [.restartDone]).Waits .restart := by
  decide

theorem witness_SendFollowsItsRule :
    ∀ t ∈ [TxState.startSent, .addrSentW, .dataSent, .restartSent],
      (quietAt .report t [.txDone 0]).Quiet ∧ (quietAt .report t [.txDone 0]).sched = []
      ∧ (quietAt .report t [.txDone 0]).on = true ∧ (headOf .report t [.send 0x79]).AtHead (.send 0x79) []
      ∧ (waitOf .report t (.send 0x79) [.txDone 0]).Waits (.send 0x79) := by
  decide

theorem witness_NackOutcomeOfSend :
    ((waitOf .legacyHang .startSent (.send 0x78) [.txDone 1]).Waits (.send 0x78)
      ∧ (waitOf .legacyHang .startSent (.send 0x78) [.txDone 1]).params.errMode = .legacyHang)
    ∧ ((waitOf .report .startSent (.send 0x78) [.txDone 1]).Waits (.send 0x78)
      ∧ (waitOf .report .startSent (.send 0x78) [.txDone 1]).params.errMode = .report)
    ∧ (∀ t ∈ [TxState.startSent, .addrSentW, .dataSent, .restartSent],
      (quietAt .report t [.txDone 1]).Quiet ∧ (quietAt .report t [.txDone 1]).sched = []
      ∧ (quietAt .report t [.txDone 1]).on = true ∧ (quietAt .report t [.txDone 1]).params.errMode = .report)
    ∧ (∀ m ∈ [MicroOp.stop, .restart, .send 0, .enable], m.isBus = true ∨ m = .enable) := by
  decide

theorem witness_NackOutcomeOfSend_after_hang :
    { headOf .legacyHang .startSent [.send 0x78] with hung := true }.hung = true
    ∧ { headOf .legacyHang .startSent [.send 0x78] with hung := true }.sched.head? ≠ some .reset
    ∧ ∃ t, step { headOf .legacyHang .startSent [.send 0x78] with hung := true } = .next t :=
  ⟨rfl, by decide, _, rfl⟩

theorem witness_RecvFollowsItsRule :
    ∀ t ∈ [TxState.addrSentR, .recvAcked],
      (quietAt .report t [.rxDone 0x5A]).Quiet ∧ (quietAt .report t [.rxDone 0x5A]).sched = []
      ∧ (quietAt .report t [.rxDone 0x5A]).on = true ∧ (headOf .report t [.recv]).AtHead .recv []
      ∧ (waitOf .report t .recv [.rxDone 0x5A]).Waits .recv := by
  decide

theorem witness_AckFollowsItsRule :
    ∀ a ∈ [(0 : BitVec 1), 1],
      (quietAt .report .dataRecv [.ackDone]).Quiet ∧ (quietAt .report .dataRecv [.ackDone]).sched = []
      ∧ (quietAt .report .dataRecv [.ackDone]).on = true ∧ (headOf .report .dataRecv [.ack a]).AtHead (.ack a) []
      ∧ (waitOf .report .dataRecv (.ack a) [.ackDone]).Waits (.ack a) := by
  decide

theorem witness_StopFollowsItsRule :
    (∀ t ∈ [TxState.addrSentW, .dataSent, .recvNacked, .nacked],
      (quietAt .report t [.stopDone]).Quiet ∧ (quietAt .report t [.stopDone]).sched = []
      ∧ (quietAt .report t [.stopDone]).on = true ∧ (headOf .report t [.stop]).AtHead .stop [])
    ∧ (waitOf .report .stopSent .stop [.stopDone]).Waits .stop := by
  decide

/-- Another micro-operation at the head: issued in the default order, and refused on the block's turn. -/
theorem witness_StopFollowsItsRule_others :
    ((headOf .report .idle [.start]).running = true ∧ (headOf .report .idle [.start]).wst = .ready
      ∧ (headOf .report .idle [.start]).uq = [.start] ∧ (headOf .report .idle [.start]).sched = []
      ∧ MicroOp.start ≠ .stop ∧ ∃ t, step (headOf .report .idle [.start]) = .next t)
    ∧ (let s := { headOf .report .dataSent [.start] with sched := [.block] };
      s.running = true ∧ s.wst = .ready ∧ s.sched.head? = some .block ∧ ∃ t, step s = .next t) :=
  ⟨⟨by decide, rfl, rfl, rfl, by decide, _, rfl⟩, by decide, rfl, rfl, _, rfl⟩

/-- Two states of the invariant with a transaction open: a byte is waited for, its wait ends in the next step. -/
def openSend (mode : ErrMode) : State :=
  { waitOf mode .startSent (.send 0x78) [.txDone 0] with trstat := true, trn := 0x78, bus := [.s] }

theorem openSend_inv (mode : ErrMode) : (openSend mode).Inv := by
  have hp : (paramsOf mode).wf = true := by cases mode <;> decide
  refine ⟨?_, (rfl : busReplay [.s] = some .startSent)⟩
  constructor
  case waiting => intro m h; cases h; exact ⟨rfl, by simp [openSend, waitOf, headOf], rfl, .inl rfl, fun _ => rfl⟩
  case params => exact hp
  case stopSent => simp [openSend, waitOf, headOf]
  case timeoutWhy => simp [openSend, waitOf, headOf, quiet, State.reset]
  case hungWhy => intro h; cases h
  case collecting => intro h; exact absurd rfl h
  all_goals first | rfl | (intro h; cases h)

theorem witness_TsFollowsTheTable :
    (openSend .report).Inv ∧ ∃ t, step (openSend .report) = .next t ∧ t.ts ≠ (openSend .report).ts
      ∧ (openSend .report).sched.head? ≠ some .reset :=
  ⟨openSend_inv _, _, rfl, by decide, by decide⟩

theorem witness_RetirementPushesTheStatus :
    ((headOf .report .startSent []).running = true ∧ (headOf .report .startSent []).wst = .ready
      ∧ (headOf .report .startSent []).uq = [] ∧ (headOf .report .startSent []).sched = [])
    ∧ (openSend .legacyHang).Inv ∧ (openSend .legacyHang).params.errMode = .legacyHang
    ∧ ∃ t, step (openSend .legacyHang) = .next t :=
  ⟨by decide, openSend_inv _, rfl, _, rfl⟩

theorem witness_InvariantIsKept : (openSend .report).Inv ∧ ∃ t, step (openSend .report) = .next t :=
  ⟨openSend_inv _, _, rfl⟩

theorem witness_IdleMeansEveryStartMatched : (openSend .report).Inv := openSend_inv _

theorem witness_AtMostOneRequest : (openSend .report).Inv := openSend_inv _

theorem witness_WriteRegisterCompletes :
    (quietAt .report .idle writeAnswers).Quiet ∧ (quietAt .report .idle writeAnswers).sched = []
    ∧ (quietAt .report .idle writeAnswers).on = true ∧ (quietAt .report .idle writeAnswers).ts = .idle
    ∧ (quietAt .report .idle writeAnswers).envQ = writeAnswers ++ [] := by
  decide

/-- The first, the second and the third byte not acknowledged, in both modes. -/
theorem witness_WriteRegisterNack :
    ∀ k ∈ [0, 1, 2], ∀ mode ∈ [ErrMode.legacyHang, .report],
      let s := quietAt mode .idle ([.startDone] ++ List.replicate k (.txDone 0) ++ [.txDone 1, .stopDone])
      s.Quiet ∧ s.sched = [] ∧ s.on = true ∧ s.ts = .idle ∧ k < 3
      ∧ s.envQ = [.startDone] ++ List.replicate k (.txDone 0) ++ [.txDone 1, .stopDone] ++ [] := by
  decide

theorem witness_ReadRegisterCompletes :
    let s := quietAt .report .idle (readHeadAnswers ++ [.rxDone 0x69, .ackDone, .stopDone])
    s.Quiet ∧ s.sched = [] ∧ s.on = true ∧ s.ts = .idle
    ∧ s.envQ = readHeadAnswers ++ [.rxDone 0x69, .ackDone, .stopDone] ++ [] := by
  decide

/-- One byte and three bytes; the largest count is a list of 255. -/
theorem witness_ReadMultipleCompletes :
    (∀ ds ∈ [([] : List Byte), [1, 2]],
      let s := quietAt .report .idle (readHeadAnswers ++ burstAnswers (ds ++ [3]) ++ [.stopDone])
      s.Quiet ∧ s.sched = [] ∧ s.on = true ∧ s.ts = .idle
      ∧ s.envQ = readHeadAnswers ++ burstAnswers (ds ++ [3]) ++ [.stopDone] ++ [])
    ∧ (([] : List Byte) ++ [3]).length = (1 : Byte).toNat ∧ ([(1 : Byte), 2] ++ [3]).length = (3 : Byte).toNat
    ∧ (List.replicate 254 (1 : Byte) ++ [3]).length = (255 : Byte).toNat := by
  decide +kernel

theorem witness_NackInCommandAborts :
    let s := { waitOf .report .addrSentW (.send 0x0A) [.txDone 1, .stopDone] with uq := [.send 0x0A, .send 0x80, .stop] }
    s.Waits (.send 0x0A) ∧ s.uq = [.send 0x0A, .send 0x80, .stop] ∧ s.on = true ∧ s.params.errMode = .report
    ∧ s.envQ = [.txDone 1, .stopDone] := by
  decide

theorem witness_WriteRegisterIsItsPrimitives :
    (quietAt .report .idle writeAnswers).Quiet ∧ (quietAt .report .idle writeAnswers).sched = []
    ∧ (quietAt .report .idle writeAnswers).on = true ∧ (quietAt .report .idle writeAnswers).ts = .idle
    ∧ (quietAt .report .idle writeAnswers).envQ = writeAnswers ++ [] := by
  decide

theorem witness_PixelMapIsBijective :
    (127 < 128 ∧ 31 < 32) ∧ (pixelIdx 127 31 = pixelIdx 127 24 + 0 ∧ pixelIdx 0 8 = pixelIdx 0 15)
    ∧ (pixelIdx 127 31 = 511 ∧ 31 % 8 = 7) ∧ (511 < 512 ∧ 7 < 8) := by
  decide

/-- Out of range at each edge; in range at the last pixel, with another byte and another pixel. -/
theorem witness_SetpixFollowsItsRule :
    (headOf .report .dataSent [.fbDraw (.pixel 0 0 1)]).AtHead (.fbDraw (.pixel 0 0 1)) []
    ∧ memWf [(511, 0xFF)] = true ∧ (128 ≤ 128 ∨ 32 ≤ 0) ∧ (128 ≤ 0 ∨ 32 ≤ 32) ∧ (127 < 128 ∧ 31 < 32)
    ∧ 510 ≠ pixelIdx 127 31 ∧ (127 ≠ 127 ∨ 30 ≠ 31) := by
  decide

theorem witness_PixelFollowsItsRule :
    (quiet .report).Quiet ∧ (quiet .report).sched = [] ∧ memWf (quiet .report).fb = true
    ∧ (128 ≤ (128 : Byte).toNat ∨ 32 ≤ (0 : Byte).toNat) ∧ ((127 : Byte).toNat < 128 ∧ (31 : Byte).toNat < 32)
    ∧ (126 ≠ (127 : Byte).toNat ∨ 31 ≠ (31 : Byte).toNat) := by
  decide

theorem witness_ClearFollowsItsRule : (quiet .report).Quiet ∧ (quiet .report).sched = [] := by decide

theorem witness_LetterFollowsItsRule :
    (quiet .report).Quiet ∧ (quiet .report).sched = [] ∧ memWf (quiet .report).fb = true
    ∧ inCell 125 27 127 31 = true ∧ inCell 125 27 124 31 = false := by
  decide

theorem witness_LetterAtOriginRoundTrips : memWf [(4, 0xFF), (5, 0xFF)] = true := by decide

/-- A pixel of the first character's cell, one of the second's after the wrap, and one of neither. -/
theorem witness_MessageFollowsItsRule :
    (quiet .report).Quiet ∧ (quiet .report).sched = [] ∧ memWf (quiet .report).fb = true
    ∧ (118, 0, 0x41) ∈ msgCells 118 0 [0x41, 0x42] ∧ inCell 118 0 122 7 = true
    ∧ (0, 8, 0x42) ∈ msgCells 118 0 [0x41, 0x42] ∧ inCell 0 8 4 15 = true
    ∧ inCell 118 0 127 31 = false ∧ inCell 0 8 127 31 = false := by
  decide

/-- The last start that draws and the first that wraps; the last pixel of a line's 25th character, the first of the
26th, and one of neither; column 127. -/
theorem witness_MessageWrapPoint :
    123 ≤ (123 : Byte).toNat ∧ (122 : Byte).toNat ≤ 122 ∧ memWf [(511, 0xFF)] = true
    ∧ (24 < (List.replicate 26 (0x41 : Byte)).length ∧ inCell (5 * (24 % 25)) (0 + 8 * (24 / 25)) 124 7 = true)
    ∧ (25 < (List.replicate 26 (0x41 : Byte)).length ∧ inCell (5 * (25 % 25)) (0 + 8 * (25 / 25)) 0 8 = true)
    ∧ (∀ k < (List.replicate 26 (0x41 : Byte)).length, inCell (5 * (k % 25)) (0 + 8 * (k / 25)) 125 0 = false)
    ∧ 127 < 128 ∧ 31 < 32 := by
  decide

theorem witness_OnlyDrawingWritesTheFramebuffer :
    (∃ t, step (openSend .report) = .next t) ∧ (openSend .report).sched.head? ≠ some .reset
    ∧ (∀ d, (openSend .report).uq.head? ≠ some (.fbDraw d)) ∧ (openSend .report).uq.head? ≠ some .fbClear := by
  refine ⟨⟨_, rfl⟩, by decide, fun d h => ?_, by decide⟩
  simp [openSend, waitOf, headOf] at h

theorem witness_DisplayCommandCompletes :
    (quietAt .report .idle writeAnswers).Quiet ∧ (quietAt .report .idle writeAnswers).sched = []
    ∧ (quietAt .report .idle writeAnswers).on = true ∧ (quietAt .report .idle writeAnswers).ts = .idle
    ∧ (quietAt .report .idle writeAnswers).envQ = writeAnswers ++ [] := by
  decide

theorem witness_SendFbReadsAtItsIssue :
    ∀ t ∈ [TxState.startSent, .addrSentW, .dataSent, .restartSent],
      (headOf .report t [.sendFb 511]).AtHead (.sendFb 511) [] ∧ (headOf .report t [.sendFb 511]).on = true := by
  decide

theorem witness_UpdateCompletes :
    let s := quietAt .report .idle (cmdSeqAnswers 2 ++ dataAnswers)
    s.Quiet ∧ s.sched = [] ∧ s.on = true ∧ s.ts = .idle ∧ s.params.windowSeq.length = 2 ∧ s.envQ = cmdSeqAnswers 2 ++ dataAnswers :=
  ⟨by decide, rfl, rfl, rfl, rfl, rfl⟩

/-- Exactly the settle time; the engine off, with and without a byte in `INIT_SEQ`, and on with every answer to
come. -/
theorem witness_DisplaySetupCompletes :
    (let s := { quiet .report with on := false, sched := [.block, .tick 3] };
      s.Quiet ∧ s.sched = [.block, .tick 3] ∧ s.ts = .idle ∧ s.params.settleTicks ≤ 3 ∧ s.on = false
      ∧ s.params.initSeq ≠ [])
    ∧ (let s := { quiet .report with
          on := false, sched := [.block, .tick 3], params := { paramsOf .report with initSeq := [] } };
      s.Quiet ∧ s.sched = [.block, .tick 3] ∧ s.ts = .idle ∧ s.params.settleTicks ≤ 3 ∧ s.on = false
      ∧ s.params.initSeq = [])
    ∧ (let s := { quietAt .report .idle (cmdSeqAnswers 2 ++ cmdSeqAnswers 2 ++ dataAnswers) with
          sched := [.block, .tick 3] };
      s.Quiet ∧ s.ts = .idle ∧ s.on = true ∧ s.params.initSeq.length = 2 ∧ s.params.windowSeq.length = 2
      ∧ s.envQ = cmdSeqAnswers 2 ++ cmdSeqAnswers 2 ++ dataAnswers) :=
  ⟨by decide, by decide, by decide, rfl, rfl, rfl, rfl, rfl⟩

theorem witness_HaltedUntilReset :
    ({ quiet .report with hung := true }.alive = false ∧ { quiet .report with fault := .seq, sched := [.env] }.alive = false)
    ∧ (∃ t, step { quiet .report with fault := .seq, sched := [.env] } = .next t)
    ∧ { quiet .report with fault := .seq, sched := [.env] }.sched.head? ≠ some .reset :=
  ⟨by decide, ⟨_, rfl⟩, by decide⟩

theorem witness_HungOnlyByNack :
    ∃ t, step (waitOf .legacyHang .startSent (.send 0x78) [.txDone 1]) = .next t
      ∧ (waitOf .legacyHang .startSent (.send 0x78) [.txDone 1]).hung = false ∧ t.hung = true :=
  ⟨_, rfl, rfl, rfl⟩

/-- The exact tick at which the timeout is enabled; its race with a completion; the tick before it; a
`DELAY` as old as the timeout. -/
theorem witness_TimeoutFollowsItsRule :
    (let s := { waitOf .report .idle .start [] with t0 := 50, tick := 1050 };
      s.Waits .start ∧ MicroOp.start.isBus = true ∧ s.params.errMode = .report ∧ s.params.pollTimeout ≤ s.elapsed
      ∧ s.envQ = [])
    ∧ (let s := { waitOf .report .idle .start [.startDone] with t0 := 50, tick := 1050, sched := [.block] };
      s.running = true ∧ s.wst = .waiting .start ∧ s.sched = [.block] ∧ s.params.pollTimeout ≤ s.elapsed)
    ∧ (let s := waitOf .report .idle .start [.startDone];
      s.Waits .start ∧ s.envQ = [.startDone] ∧ ∃ t, complete .start .startDone { s with envQ := [] } = some t)
    ∧ (let s := { waitOf .report .idle .start [] with t0 := 50, tick := 1049, sched := [.block] };
      s.wst = .waiting .start ∧ s.sched = [.block] ∧ s.NotTimedOut)
    ∧ (let s := { waitOf .report .idle (.delay 3) [] with t0 := 50, tick := 1050, sched := [.block] };
      s.wst = .waiting (.delay 3) ∧ s.sched = [.block] ∧ ∃ n, MicroOp.delay 3 = .delay n) :=
  ⟨by decide, by decide, ⟨by decide, by decide, _, rfl⟩, by decide, rfl, rfl, _, rfl⟩

/-- Exactly `n` ticks, and one less; `DELAY(0)` ends at once. -/
theorem witness_DelayFollowsItsRule :
    (headOf .report .idle [.delay 3]).AtHead (.delay 3) []
    ∧ (let s := { waitOf .report .idle (.delay 3) [] with t0 := 5, tick := 8 };
      s.Waits (.delay 3) ∧ 3 ≤ s.tick - s.t0)
    ∧ (let s := { waitOf .report .idle (.delay 3) [] with t0 := 5, tick := 7 };
      s.Waits (.delay 3) ∧ ¬ 3 ≤ s.tick - s.t0)
    ∧ 0 ≤ (waitOf .report .idle (.delay 0) []).tick - (waitOf .report .idle (.delay 0) []).t0 := by
  decide

/-- A transaction open, a START waited for in `IDLE`, nothing open, and a delay in `IDLE`. -/
theorem witness_ResetEvent :
    { quiet .report with sched := [.reset] }.sched = [.reset] ∧ (headOf .report .dataSent []).ts ≠ .idle
    ∧ (MicroOp.start.isBus = true ∧ (waitOf .report .idle .start []).wst = .waiting .start)
    ∧ ((quiet .report).ts = .idle ∧ (quiet .report).wst = .ready)
    ∧ (waitOf .report .idle (.delay 3) []).wst = .waiting (.delay 3) := by
  decide

theorem witness_CsrMap : ∀ i ∈ [(8 : BitVec 4), 15], 8 ≤ i.toNat := by decide

theorem witness_PortReadsHaveNoSideEffect :
    { quiet .report with sched := [.readCsr 15] }.sched = [.readCsr 15]
    ∧ ({ quiet .report with sched := [.readFb 511] }.sched = [.readFb 511]
      ∧ { quiet .report with sched := [.readFb 511] }.busy = false)
    ∧ { headOf .report .idle [] with sched := [.readFb 0] }.busy = true := by
  decide

theorem witness_ParametersNeverChange : ∃ t, step (openSend .report) = .next t := ⟨_, rfl⟩

theorem witness_TracesOnlyGrow : ∃ t, step (openSend .report) = .next t := ⟨_, rfl⟩

theorem witness_OnlyTheTickSourceWritesTick :
    ∃ t, step { quiet .report with sched := [.tick 1], tick := 0xFFFFFFFF } = .next t ∧ t.tick ≠ 0xFFFFFFFF :=
  ⟨_, rfl, by decide⟩

theorem witness_EngineEnabledOnlyBySetup :
    (∃ t, step { headOf .report .idle [.enable] with on := false } = .next t ∧ t.on = true)
    ∧ ∃ t, step { quiet .report with sched := [.reset] } = .next t ∧ t.on = false :=
  ⟨⟨_, rfl, rfl⟩, ⟨_, rfl, rfl⟩⟩

end Sys2Proof.Tests
end

section
/-! PROOFS. What each operation of the block leaves unchanged, said once per operation; and the inversion lemma of a
completion. -/

namespace Sys2Proof.Machine

/-! ### The request of a micro-operation touches its own bit, `TRN` or `ACKDT`, and for `STOP` `ts` -/

section Request
variable (m : MicroOp) (s : State)

@[simp] theorem request_on : (request m s).on = s.on := by cases m <;> rfl
@[simp] theorem request_rbf : (request m s).rbf = s.rbf := by cases m <;> rfl
@[simp] theorem request_busy : (request m s).busy = s.busy := by cases m <;> rfl
@[simp] theorem request_uq : (request m s).uq = s.uq := by cases m <;> rfl
@[simp] theorem request_st : (request m s).st = s.st := by cases m <;> rfl
@[simp] theorem request_latched : (request m s).latched = s.latched := by cases m <;> rfl
@[simp] theorem request_hung : (request m s).hung = s.hung := by cases m <;> rfl
@[simp] theorem request_fault : (request m s).fault = s.fault := by cases m <;> rfl
@[simp] theorem request_fb : (request m s).fb = s.fb := by cases m <;> rfl
@[simp] theorem request_bus : (request m s).bus = s.bus := by cases m <;> rfl
@[simp] theorem request_params : (request m s).params = s.params := by cases m <;> rfl

/-- Only `STOP` changes `ts` at its issue (R110). -/
theorem request_ts : (request m s).ts = if m = .stop then .stopSent else s.ts := by cases m <;> rfl

end Request

/-! ### A local micro-operation touches the enable of the engine or the framebuffer, nothing else -/

/-- The frame of a local micro-operation. -/
theorem performLocal_frame (m : MicroOp) (s : State) :
    performLocal m s =
      { s with
        on := (performLocal m s).on, brg := (performLocal m s).brg, ackstat := (performLocal m s).ackstat
        fb := (performLocal m s).fb } := by
  cases m <;> simp only [performLocal]

/-- No local micro-operation disables the engine (R25). -/
theorem performLocal_on_false {m : MicroOp} {s : State} (h : (performLocal m s).on = false) : s.on = false := by
  cases m with
  | enable => cases h
  | _ => simpa only [performLocal] using h

/-- The drawing operations keep the canonical form of the framebuffer (R32). -/
theorem performLocal_memWf {m : MicroOp} {s : State} (h : memWf s.fb = true) : memWf (performLocal m s).fb = true := by
  cases m with
  | fbClear => simpa only [performLocal] using fbZero_wf
  | fbDraw d => simpa only [performLocal] using drawOn_wf s.fbEpoch s.params d h
  | _ => simpa only [performLocal] using h

/-! ### The issue of a micro-operation -/

/-- The frame of an issue: the traces, the configuration, the other agents and the status of the command stay. -/
theorem issueOp_frame (m : MicroOp) (s : State) :
    issueOp m s = { issueOp m s with
      st := s.st, latched := s.latched, hung := s.hung, fbEpoch := s.fbEpoch, bus := s.bus, rsp := s.rsp, cpl := s.cpl
      params := s.params, rcv := s.rcv, rbf := s.rbf, tick := s.tick, hostQ := s.hostQ, envQ := s.envQ
      sched := s.sched, reads := s.reads } := by
  rw [issueOp_eq]
  split
  · split
    · rw [performLocal_frame]; rfl
    · cases m <;> rfl
  · rfl

/-- Only `ENABLE` enables the engine, and it loads `BRG` (R103, R176). -/
theorem issueOp_on (m : MicroOp) (s : State) :
    (issueOp m s).on = s.on ∨ m = .enable ∧ (issueOp m s).on = true ∧ (issueOp m s).brg = s.params.brgValue := by
  rw [issueOp_eq]
  split
  · cases m with
    | enable => exact .inr ⟨rfl, rfl, rfl⟩
    | _ => left; simp [MicroOp.isLocal, performLocal]
  · exact .inl rfl

/-- Only `FBCLEAR` and `FBDRAW` write the framebuffer at their issue (R32). -/
theorem issueOp_fb {m : MicroOp} (s : State) (hc : m ≠ .fbClear) (hd : ∀ d, m ≠ .fbDraw d) :
    (issueOp m s).fb = s.fb := by
  rw [issueOp_eq]
  split
  · cases m with
    | fbClear => exact absurd rfl hc
    | fbDraw d => exact absurd rfl (hd d)
    | _ => simp [MicroOp.isLocal, performLocal]
  · rfl

/-! ### A completion -/

/-- Everything the completion of a micro-operation can do to a state `s`, the three outcomes of a `SEND` told apart
(R104 to R110). -/
inductive Completion (s : State) : MicroOp → State → Prop
  | start : Completion s .start ({ s with sen := false, ts := .startSent }.emit .s).finish
  | restart : Completion s .restart ({ s with rsen := false, ts := .restartSent }.emit .sr).finish
  | stop : Completion s .stop ({ s with pen := false, ts := .idle }.emit .p).finish
  | ack (a : BitVec 1) : Completion s (.ack a) ({ s with acken := false, ts := tsAfterAck a }.emit (.ma a)).finish
  | recv (d : Byte) : Completion s .recv
      (({ s with rcen := false, rcv := d, rbf := false, ts := .dataRecv }.pushRsp d).emit (.rx d)).finish
  | sendAcked (b : Byte) : Completion s (.send b)
      ({ s with trstat := false, ackstat := 0, ts := tsAfterSend b s.ts }.emit (.tx b 0)).finish
  | sendHung (b : Byte) (hm : s.params.errMode = .legacyHang) : Completion s (.send b)
      ({ s with trstat := false, ackstat := 1 }.emit (.tx b 1)).hang
  | sendNacked (b : Byte) (hm : s.params.errMode = .report) : Completion s (.send b)
      { ({ s with trstat := false, ackstat := 1 }.emit (.tx b 1)).finish with
        ts := .nacked, st := .nack, uq := if s.uq.tail.isEmpty then [] else [.stop] }

/-- The inversion lemma of `completeSend` (R106, R107). -/
theorem completeSend_completion (b : Byte) (a : BitVec 1) (s : State) : Completion s (.send b) (completeSend b a s) := by
  by_cases ha : a = 0
  · subst ha; exact .sendAcked b
  · cases bit_eq_one ha
    cases hm : s.params.errMode
    · have : completeSend b 1 s = ({ s with trstat := false, ackstat := 1 }.emit (.tx b 1)).hang := by
        simp [completeSend, nackOutcome, hm]
      rw [this]; exact .sendHung b hm
    · have : completeSend b 1 s = { ({ s with trstat := false, ackstat := 1 }.emit (.tx b 1)).finish with
          ts := .nacked, st := .nack, uq := if s.uq.tail.isEmpty then [] else [.stop] } := by
        simp [completeSend, nackOutcome, hm]
      rw [this]; exact .sendNacked b hm

/-- The inversion lemma of `complete`. -/
theorem complete_completion {m : MicroOp} {e : EnvAct} {s t : State} (h : complete m e s = some t) :
    Completion s m t := by
  rcases complete_cases h with
    ⟨rfl, _, rfl⟩ | ⟨rfl, _, rfl⟩ | ⟨rfl, _, rfl⟩ | ⟨a, rfl, _, rfl⟩ | ⟨b, a, rfl, _, rfl⟩ | ⟨d, rfl, _, rfl⟩
  · exact .start
  · exact .restart
  · exact .stop
  · exact .ack a
  · exact completeSend_completion b a s
  · exact .recv d

/-- The frame of a completion: the enable of the engine, the framebuffer, the fault, the configuration, and whether a
command is in flight stay; the wait is over. -/
theorem Completion.frame {m : MicroOp} {s t : State} (h : Completion s m t) :
    t = { t with
      on := s.on, brg := s.brg, busy := s.busy, latched := s.latched, fault := s.fault, fb := s.fb
      fbEpoch := s.fbEpoch, cpl := s.cpl, params := s.params, wst := .ready } := by
  cases h <;> rfl

/-! ### What a host word leaves alone -/

/-- The frame of a host word. -/
theorem takeWord_frame {w : Word} {s t : State} (h : takeWord w s = .next t) (hc : s.cmdReady = true) :
    t = { s with
      busy := t.busy, upc := t.upc, st := t.st, uq := t.uq, latched := t.latched, fault := t.fault } := by
  rcases takeWord_cases hc h with ⟨q, rfl⟩ | rfl | rfl | ⟨rfl, _⟩ <;> rfl

/-! ### A scheduled turn -/

/-- A scheduled turn is the move of its agent. -/
theorem step_turn {s : State} {a : Turn} {ts : List Turn} (hs : s.sched = a :: ts) :
    step s = turnStep a { s with sched := ts } := by
  simp [step, advance, hs, State.turned]

end Sys2Proof.Machine
end

section
/-! PROOFS. Every step keeps the invariant (O58). -/

namespace Sys2Proof.Machine

/-! ### The request bits -/

/-- The six request bits are those of the wait `w` (R23, R24). -/
structure State.Requests (s : State) (w : Wait) : Prop where
  sen : s.sen = decide (w = .waiting .start)
  rsen : s.rsen = decide (w = .waiting .restart)
  pen : s.pen = decide (w = .waiting .stop)
  rcen : s.rcen = decide (w = .waiting .recv)
  acken : s.acken = w.isAck
  trstat : s.trstat = w.isSend

theorem State.Coherent.requests {s : State} (h : s.Coherent) : s.Requests s.wst :=
  ⟨h.sen, h.rsen, h.pen, h.rcen, h.acken, h.trstat⟩

/-- An issue sets the bit of its micro-operation. -/
theorem request_requests {m : MicroOp} {s : State} (h : s.Requests .ready) (hm : m.waits = true) :
    (request m s).Requests (.waiting m) := by
  obtain ⟨h1, h2, h3, h4, h5, h6⟩ := h
  cases m <;> simp [MicroOp.waits] at hm <;> constructor <;>
    simp [request, Wait.isAck, Wait.isSend, h1, h2, h3, h4, h5, h6]

/-- A completion clears the bit of its micro-operation. -/
theorem Completion.requests {m : MicroOp} {s t : State} (h : Completion s m t) (hs : s.Requests (.waiting m)) :
    t.Requests .ready := by
  obtain ⟨h1, h2, h3, h4, h5, h6⟩ := hs
  cases h <;> constructor <;> simp [Wait.isAck, Wait.isSend, h1, h2, h3, h4, h5, h6]

/-- The end of a delay has no bit to clear. -/
theorem State.Requests.of_delay {s : State} {n : Word} (h : s.Requests (.waiting (.delay n))) : s.Requests .ready := by
  obtain ⟨h1, h2, h3, h4, h5, h6⟩ := h
  constructor <;> simp [Wait.isAck, Wait.isSend, h1, h2, h3, h4, h5, h6]

/-- At most one bit belongs to a wait (R23). -/
theorem State.Requests.at_most_one {s : State} {w : Wait} (h : s.Requests w) :
    ([s.sen, s.rsen, s.pen, s.rcen, s.acken, s.trstat].filter (fun b => b)).length ≤ 1 := by
  obtain ⟨h1, h2, h3, h4, h5, h6⟩ := h
  rw [h1, h2, h3, h4, h5, h6]
  cases w with
  | ready => decide
  | waiting m => cases m <;> simp [Wait.isAck, Wait.isSend]

/-! ### A running block that waits for nothing -/

/-- What coherence says of a running block that waits for nothing. -/
structure State.Settled (s : State) : Prop where
  running : s.running = true
  ready : s.wst = .ready
  requests : s.Requests .ready
  rbf : s.rbf = false
  notStopSent : s.ts ≠ .stopSent
  notOn : s.on = false → s.ts = .idle
  nackedWhy : s.ts = .nacked → s.params.errMode = .report
  nackWhy : s.st = .nack → s.params.errMode = .report
  notTimeout : s.st ≠ .timeout
  memory : memWf s.fb = true
  params : s.params.wf = true

theorem State.Settled.coherent {s : State} (h : s.Settled) : s.Coherent := by
  obtain ⟨hh, hf, hb, hl⟩ := running_iff.1 h.running
  have hr := h.requests
  rw [← h.ready] at hr
  exact
    { hr, h with
      stopSent := by simp [h.ready, h.notStopSent]
      notBusy := by simp [hb]
      waiting := by simp [h.ready]
      collecting := by simp [hl]
      notOn := fun ho => ⟨h.notOn ho, by simp [State.busWaiting, h.ready]⟩
      hungWhy := by simp [hh]
      timeoutWhy := by simp [hf, h.notTimeout]
      timeoutMode := by simp [hf] }

theorem State.Coherent.settled {s : State} (h : s.Coherent) (hr : s.running = true) (hw : s.wst = .ready) :
    s.Settled := by
  obtain ⟨_, hf, _, _⟩ := running_iff.1 hr
  exact
    { h with
      running := hr
      ready := hw
      requests := hw ▸ h.requests
      notStopSent := by simp [h.stopSent, hw]
      notOn := fun ho => (h.notOn ho).1
      notTimeout := by simp [h.timeoutWhy, hf] }

/-- Without a hang and outside `STOP_SENT` the trace ends in `ts`. -/
theorem State.busTraced_iff {s : State} (hh : s.hung = false) (ht : s.ts ≠ .stopSent) :
    s.BusTraced ↔ busReplay s.bus = some s.ts := by
  simp [State.BusTraced, hh, ht]

/-! ### What only an agent sees -/

/-- The invariant speaks of nothing but the block. -/
theorem State.Inv.turned {s : State} (h : s.Inv) : s.turned.Inv := ⟨{ h.1 with }, h.2⟩

theorem State.Inv.answered {s : State} (h : s.Inv) : s.answered.Inv := ⟨{ h.1 with }, h.2⟩

theorem State.Inv.presented {s : State} (h : s.Inv) : s.presented.Inv := ⟨{ h.1 with }, h.2⟩

theorem State.Inv.answer {s : State} (h : s.Inv) (r : PortRead) : (s.answer r).Inv := ⟨{ h.1 with }, h.2⟩

theorem State.Inv.tick {s : State} (h : s.Inv) (n : Word) : ({ s with tick := s.tick + n } : State).Inv :=
  ⟨{ h.1 with }, h.2⟩

/-! ### The block's own steps -/

/-- A command retires (R101, R112). -/
theorem retire_inv {s : State} (h : s.Inv) (hr : s.running = true) (hw : s.wst = .ready) (hq : s.uq = []) :
    (retire s).Inv := by
  obtain ⟨hh, hf, _, hl⟩ := running_iff.1 hr
  exact ⟨{ h.1 with notBusy := fun _ => ⟨hw, hq, hl, by simp [retire, State.alive, hh, hf]⟩ }, h.2⟩

/-- A fault of the block that waits for nothing and keeps no latched word (R162). -/
theorem raiseFault_inv {s : State} {c : Cause} (h : s.Inv) (hw : s.wst = .ready) (hl : s.latched = [])
    (ha : s.hung = false ∧ s.fault = .noFault) (hc : c ≠ .timeout) : (s.raiseFault c).Inv := by
  obtain ⟨hh, hf⟩ := ha
  have hst : s.st ≠ .timeout := by simp [h.1.timeoutWhy, hf]
  have hfault : (s.raiseFault c).fault = c := by simp [hf]
  exact
    ⟨{ h.1 with
        notBusy := by simp
        waiting := by simp [hw]
        collecting := by simp [hl]
        hungWhy := by simp [hh]
        timeoutWhy := by rw [hfault]; simp [hst, hc]
        timeoutMode := by rw [hfault]; simp [hc] }, h.2⟩

/-- The timeout of a bus wait (R168). -/
theorem timeout_inv {s : State} (h : s.Inv) (hr : s.running = true) (hm : s.params.errMode = .report) :
    (({ s with st := .timeout }.pushCpl .timeout).raiseFault .timeout).Inv := by
  obtain ⟨hh, hf, _, hl⟩ := running_iff.1 hr
  refine ⟨{ h.1 with
    notBusy := by simp
    waiting := fun m hw => ?_
    collecting := by simp [hl]
    hungWhy := by simp [hh]
    nackWhy := by simp
    timeoutWhy := by simp [hf]
    timeoutMode := fun _ => hm }, h.2⟩
  obtain ⟨hwaits, hq, hhung, _, hlegal⟩ := h.1.waiting m hw
  exact ⟨hwaits, hq, hhung, .inr (by simp [hf]), hlegal⟩

/-- A local micro-operation is done at its issue (R103, R130, R132). -/
theorem performLocal_finish_inv {m : MicroOp} {s : State} (h : s.Inv) (hr : s.running = true) (hw : s.wst = .ready) :
    (performLocal m s).finish.Inv := by
  have hs := h.1.settled hr hw
  have hmem := performLocal_memWf (m := m) hs.memory
  have hon := performLocal_on_false (m := m) (s := s)
  rw [performLocal_frame] at hmem hon ⊢
  refine ⟨State.Settled.coherent ?_, h.2⟩
  exact { hs with ready := rfl, requests := { hs.requests with }, memory := hmem, notOn := fun ho => hs.notOn (hon ho) }

theorem busWaiting_eq_isBus {s : State} {m : MicroOp} (hw : s.wst = .waiting m) (hm : m.waits = true) :
    s.busWaiting = m.isBus := by
  cases m <;> simp [State.busWaiting, hw, MicroOp.isBus, MicroOp.waits] at hm ⊢

/-- The block enters the wait for `m` (R101). -/
theorem request_arm_inv {m : MicroOp} {s : State} (h : s.Inv) (hr : s.running = true) (hw : s.wst = .ready)
    (hq : s.uq ≠ []) (hm : m.waits = true) (hon : m.isBus = true → s.on = true) (hl : legal m s.ts = true) :
    ((request m s).arm m).Inv := by
  have hs := h.1.settled hr hw
  obtain ⟨hh, hf, hb, hlat⟩ := running_iff.1 hr
  have hbus := (State.busTraced_iff hh hs.notStopSent).1 h.2
  have hreq : ((request m s).arm m).Requests (.waiting m) := { request_requests hs.requests hm with }
  have hoff : s.on = false → m.isBus = false := fun ho => by
    cases hi : m.isBus
    · rfl
    · rw [hon hi] at ho; cases ho
  have hts : m ≠ .stop → ((request m s).arm m).ts = s.ts := fun hstop => by simp [request_ts, hstop]
  constructor
  · exact
      { hreq with
        rbf := by simpa using hs.rbf
        stopSent := by by_cases hstop : m = .stop <;> simp [request_ts, hstop, hs.notStopSent]
        notBusy := by simp [hb]
        waiting := fun m' hm' => by
          cases hm'
          exact ⟨hm, by simpa using hq, by simpa using hh, .inl (by simpa using hf),
            fun hstop => by rw [hts hstop, hl]⟩
        collecting := by simp [hlat]
        notOn := fun ho => by
          have ho' : s.on = false := by simpa using ho
          have hnb := hoff ho'
          have hstop : m ≠ .stop := by rintro rfl; cases hnb
          exact ⟨by rw [hts hstop, hs.notOn ho'], by rw [busWaiting_eq_isBus rfl hm, hnb]⟩
        hungWhy := by simp [hh]
        nackedWhy := by
          by_cases hstop : m = .stop
          · simp [request_ts, hstop]
          · rw [hts hstop]; simpa using hs.nackedWhy
        nackWhy := by simpa using hs.nackWhy
        timeoutWhy := by simp [h.1.timeoutWhy]
        timeoutMode := by simp [hf]
        memory := by simpa using hs.memory
        params := by simpa using hs.params }
  · by_cases hstop : m = .stop
    · subst hstop
      have : ((request .stop s).arm .stop).hung = false := hh
      rw [State.BusTraced, this]
      exact ⟨s.ts, hbus, hl⟩
    · rw [State.busTraced_iff (by simpa using hh) (by rw [hts hstop]; exact hs.notStopSent), hts hstop]
      simpa using hbus

theorem issued_waits {m : MicroOp} (s : State) (h : m.isLocal = false) : (issued m s).waits = true := by
  cases m <;> simp [MicroOp.isLocal] at h <;> rfl

theorem issued_isBus (m : MicroOp) (s : State) : (issued m s).isBus = m.isBus := by cases m <;> rfl

theorem legal_issued (m : MicroOp) (s : State) (t : TxState) : legal (issued m s) t = legal m t := by cases m <;> rfl

/-- An issue: a fault, a local micro-operation, or a wait (R101, R102). -/
theorem issueOp_inv {m : MicroOp} {s : State} (h : s.Inv) (hr : s.running = true) (hw : s.wst = .ready)
    (hq : s.uq ≠ []) : (issueOp m s).Inv := by
  rw [issueOp_eq]
  split
  next hp =>
    obtain ⟨hon, hl⟩ := pre_noFault.1 hp
    split
    next => exact performLocal_finish_inv h hr hw
    next hm =>
      exact request_arm_inv h hr hw hq (issued_waits s (by simpa using hm)) (by rwa [issued_isBus])
        (by rwa [legal_issued])
  next hp =>
    obtain ⟨hh, hf, _, hl⟩ := running_iff.1 hr
    refine raiseFault_inv h hw hl ⟨hh, hf⟩ ?_
    rcases pre_cases m s with hc | hc | hc
    · exact absurd hc hp
    all_goals simp [hc]

/-! ### Completions -/

theorem tsAfterAck_cases (a : BitVec 1) : tsAfterAck a = .recvAcked ∨ tsAfterAck a = .recvNacked := by
  unfold tsAfterAck; split <;> simp

/-- After an acknowledged byte (R106). -/
theorem tsAfterSend_cases {b : Byte} {t : TxState} (h : legal (.send b) t = true) :
    tsAfterSend b t = .addrSentR ∨ tsAfterSend b t = .addrSentW ∨ tsAfterSend b t = .dataSent := by
  unfold tsAfterSend
  generalize b.getLsbD 0 = read
  cases t <;> simp [legal] at h <;> cases read <;> simp

theorem Completion.isBus {m : MicroOp} {s t : State} (h : Completion s m t) : m.isBus = true := by cases h <;> rfl

/-- While `m` waits, the trace ends in a state `u` in which `m` is legal: in `ts`, but for the
`STOP_SENT` of a `STOP`. -/
theorem State.Inv.waiting_replay {s : State} {m : MicroOp} (h : s.Inv) (hw : s.wst = .waiting m) :
    ∃ u, busReplay s.bus = some u ∧ legal m u = true ∧ (m ≠ .stop → u = s.ts) := by
  obtain ⟨_, _, hh, _, hl⟩ := h.1.waiting m hw
  have hss : s.ts = .stopSent ↔ m = .stop := by simp [h.1.stopSent, hw]
  by_cases hm : m = .stop
  · have hb := h.2
    rw [State.BusTraced, hh, if_neg (by simp), if_pos (hss.2 hm)] at hb
    obtain ⟨u, hu, hlu⟩ := hb
    exact ⟨u, hu, by rw [hm, hlu], fun hn => absurd hm hn⟩
  · exact ⟨s.ts, (State.busTraced_iff hh (mt hss.1 hm)).1 h.2, hl hm, fun _ => rfl⟩

/-- The event of a completion is the edge of `R111` that `ts` takes. -/
theorem Completion.busTraced {m : MicroOp} {s t : State} (h : Completion s m t) (hi : s.Inv)
    (hw : s.wst = .waiting m) : t.BusTraced := by
  obtain ⟨_, _, hh, _, _⟩ := hi.1.waiting m hw
  obtain ⟨u, hu, hl, hts⟩ := hi.waiting_replay hw
  cases h with
  | start => simp [State.BusTraced, hh, busReplay_snoc, hu, busNext, hl]
  | restart => simp [State.BusTraced, hh, busReplay_snoc, hu, busNext, hl]
  | stop => simp [State.BusTraced, hh, busReplay_snoc, hu, busNext, hl]
  | recv d => simp [State.BusTraced, hh, busReplay_snoc, hu, busNext, hl]
  | ack a => rcases tsAfterAck_cases a with ha | ha <;> simp [State.BusTraced, hh, busReplay_snoc, hu, busNext, hl, ha]
  | sendAcked b =>
    cases hts (by simp)
    rcases tsAfterSend_cases hl with hb | hb | hb <;> simp [State.BusTraced, hh, busReplay_snoc, hu, busNext, hl, hb]
  | sendHung b hm => simp [State.BusTraced, busReplay_snoc, hu, busNext, hl]
  | sendNacked b hm => simp [State.BusTraced, hh, busReplay_snoc, hu, busNext, hl]

/-- Where a completion outside the hang leaves `ts` (R26, R107). -/
theorem Completion.ts {m : MicroOp} {s t : State} (h : Completion s m t) (hl : m ≠ .stop → legal m s.ts = true)
    (hh : t.hung = false) : t.ts ≠ .stopSent ∧ (t.ts = .nacked → s.params.errMode = .report) := by
  cases h with
  | start => simp
  | restart => simp
  | stop => simp
  | recv d => simp
  | ack a => rcases tsAfterAck_cases a with ha | ha <;> simp [ha]
  | sendAcked b => rcases tsAfterSend_cases (hl (by simp)) with hb | hb | hb <;> simp [hb]
  | sendHung b hm => simp at hh
  | sendNacked b hm => simp [hm]

/-- A completion writes no status but `NACK` (R107). -/
theorem Completion.st {m : MicroOp} {s t : State} (h : Completion s m t) :
    t.st = s.st ∨ t.st = .nack ∧ s.params.errMode = .report := by
  cases h with
  | sendNacked b hm => exact .inr ⟨rfl, hm⟩
  | _ => exact .inl rfl

theorem Completion.rbf {m : MicroOp} {s t : State} (h : Completion s m t) (hs : s.rbf = false) : t.rbf = false := by
  cases h with
  | recv d => rfl
  | _ => exact hs

/-- The engine is enabled while a bus micro-operation waits (R102). -/
theorem State.Coherent.on_of_bus_wait {s : State} {m : MicroOp} (h : s.Coherent) (hw : s.wst = .waiting m)
    (hm : m.isBus = true) : s.on = true := by
  obtain ⟨hwaits, _⟩ := h.waiting m hw
  by_contra ho
  obtain ⟨_, hn⟩ := h.notOn (by simpa using ho)
  rw [busWaiting_eq_isBus hw hwaits, hm] at hn
  cases hn

/-- Outside the hang a completion leaves a running block that waits for nothing. -/
theorem Completion.settled {m : MicroOp} {s t : State} (h : Completion s m t) (hi : s.Coherent) (hr : s.running = true)
    (hw : s.wst = .waiting m) (ht : t.hung = false) : t.Settled := by
  obtain ⟨_, hf, hb, hlat⟩ := running_iff.1 hr
  obtain ⟨_, _, _, _, hl⟩ := hi.waiting m hw
  obtain ⟨hts, hnacked⟩ := h.ts hl ht
  have hon := hi.on_of_bus_wait hw h.isBus
  have hst : s.st ≠ .timeout := by simp [hi.timeoutWhy, hf]
  have hreq := h.requests (hw ▸ hi.requests)
  have hrbf := h.rbf hi.rbf
  have hstatus := h.st
  rw [h.frame] at hreq ⊢
  exact
    { running := running_iff.2 ⟨ht, hf, hb, hlat⟩
      ready := rfl
      requests := hreq
      rbf := hrbf
      notStopSent := hts
      notOn := fun ho => by rw [hon] at ho; cases ho
      nackedWhy := hnacked
      nackWhy := fun hn => hstatus.elim (fun he => hi.nackWhy (he ▸ hn)) And.right
      notTimeout := hstatus.elim (fun he => he ▸ hst) fun hn => by simp [hn.1]
      memory := hi.memory
      params := hi.params }

/-- The hang of an unacknowledged `SEND` (R107, R165). -/
theorem sendHung_coherent {s : State} {b : Byte} (hi : s.Coherent) (hr : s.running = true)
    (hw : s.wst = .waiting (.send b)) (hm : s.params.errMode = .legacyHang) :
    ({ s with trstat := false, ackstat := 1 }.emit (.tx b 1)).hang.Coherent := by
  obtain ⟨_, hf, hb, hlat⟩ := running_iff.1 hr
  obtain ⟨_, _, _, _, hl⟩ := hi.waiting _ hw
  have hreq := (Completion.sendHung (s := s) b hm).requests (hw ▸ hi.requests)
  exact
    { hreq, hi with
      stopSent := by simp [hi.stopSent, hw]
      notBusy := by simp [hb]
      waiting := by simp
      collecting := by simp [hlat]
      notOn := by simp [hi.on_of_bus_wait hw rfl]
      hungWhy := fun _ => ⟨hm, rfl, hf, hl (by simp), rfl⟩ }

/-- A completion keeps the invariant. -/
theorem Completion.inv {m : MicroOp} {s t : State} (h : Completion s m t) (hi : s.Inv) (hr : s.running = true)
    (hw : s.wst = .waiting m) : t.Inv := by
  obtain ⟨hh, _⟩ := running_iff.1 hr
  refine ⟨?_, h.busTraced hi hw⟩
  by_cases ht : t.hung = false
  · exact (h.settled hi.1 hr hw ht).coherent
  · cases h with
    | sendHung b hm => exact sendHung_coherent hi.1 hr hw hm
    | _ => exact absurd hh ht

/-- The end of a delay (R145). -/
theorem delay_finish_inv {s : State} {n : Word} (h : s.Inv) (hr : s.running = true)
    (hw : s.wst = .waiting (.delay n)) : s.finish.Inv := by
  obtain ⟨_, hf, _, _⟩ := running_iff.1 hr
  refine ⟨State.Settled.coherent ?_, h.2⟩
  exact
    { h.1 with
      running := hr
      ready := rfl
      requests := { (hw ▸ h.1.requests : s.Requests (.waiting (.delay n))).of_delay with }
      notStopSent := by simp [h.1.stopSent, hw]
      notOn := fun ho => (h.1.notOn ho).1
      notTimeout := by simp [h.1.timeoutWhy, hf] }

/-! ### The host's word -/

/-- A block that is ready for a word has nothing in flight (R22, R87). -/
theorem State.Coherent.of_cmdReady {s : State} (h : s.Coherent) (hc : s.cmdReady = true) :
    s.wst = .ready ∧ s.uq = [] ∧ s.hung = false ∧ s.fault = .noFault := by
  simp only [State.cmdReady, State.alive, Bool.and_eq_true, Bool.or_eq_true, Bool.not_eq_true', decide_eq_true_eq,
    List.isEmpty_eq_false_iff] at hc
  obtain ⟨⟨hh, hf⟩, hb | hl⟩ := hc
  · obtain ⟨hw, hq, _⟩ := h.notBusy hb
    exact ⟨hw, hq, hh, hf⟩
  · obtain ⟨_, hw, hq, _⟩ := h.collecting hl
    exact ⟨hw, hq, hh, hf⟩

/-- Giving up the latched words leaves a free block. -/
theorem unlatched_inv {s : State} (h : s.Inv) (hc : s.cmdReady = true) : s.unlatched.Inv := by
  obtain ⟨hw, hq, hh, hf⟩ := h.1.of_cmdReady hc
  exact
    ⟨{ h.1 with
        notBusy := fun _ => ⟨hw, hq, rfl, by simp [State.alive, State.unlatched, hh, hf]⟩
        collecting := fun hl => absurd rfl hl }, h.2⟩

/-- A command is accepted (R87). -/
theorem load_inv {s : State} (h : s.Inv) (hi : s.idleReady = true) (q : List MicroOp) : (s.load q).Inv := by
  obtain ⟨hh, hf, hb⟩ := idleReady_iff.1 hi
  obtain ⟨hw, _, hl, _⟩ := h.1.notBusy hb
  refine ⟨State.Settled.coherent ?_, h.2⟩
  exact
    { h.1 with
      running := running_iff.2 ⟨hh, hf, rfl, hl⟩
      ready := hw
      requests := { (hw ▸ h.1.requests : s.Requests .ready) with }
      notStopSent := by simp [h.1.stopSent, hw]
      notOn := fun ho => (h.1.notOn ho).1
      nackWhy := by simp
      notTimeout := by simp }

/-- One more word of an `OLED_MSG` is latched (R86). -/
theorem collect_inv {s : State} {w : Word} (h : s.Inv) (hc : s.cmdReady = true)
    (hd : decode (s.latched ++ [w]) = .more) :
    ({ s with latched := s.latched ++ [w], busy := true } : State).Inv := by
  obtain ⟨hw, hq, hh, hf⟩ := h.1.of_cmdReady hc
  exact
    ⟨{ h.1 with
        notBusy := by simp
        collecting := fun _ => ⟨hd, hw, hq, by simp [State.alive, hh, hf]⟩ }, h.2⟩

/-- Taking a word keeps the invariant. -/
theorem takeWord_inv {w : Word} {s t : State} (h : s.Inv) (hc : s.cmdReady = true) (ht : takeWord w s = .next t) :
    t.Inv := by
  obtain ⟨hw, _, hh, hf⟩ := h.1.of_cmdReady hc
  have hu := unlatched_inv h hc
  have hfault : ∀ c, c ≠ Cause.timeout → (s.unlatched.raiseFault c).Inv :=
    fun c => raiseFault_inv hu hw rfl ⟨hh, hf⟩
  rcases takeWord_cases hc ht with ⟨q, rfl⟩ | rfl | rfl | ⟨rfl, hd⟩
  · exact load_inv hu (idleReady_iff.2 ⟨hh, hf, rfl⟩) q
  · exact hfault .operand (by decide)
  · exact hfault .illegalCmd (by decide)
  · exact collect_inv h hc hd

/-! ### Reset -/

/-- A reset appends nothing exactly where no transaction is open, which is where the trace ends in `IDLE` (R181). -/
theorem resetBlock_replay {s : State} (h : s.Inv) : busReplay s.resetBlock.bus = some .idle := by
  obtain ⟨u, hu⟩ : ∃ u, busReplay s.bus = some u := by
    have hb := h.2
    unfold State.BusTraced at hb
    split at hb
    · exact ⟨_, hb⟩
    · split at hb
      · exact hb.imp fun _ => And.left
      · exact ⟨_, hb⟩
  rw [State.resetBlock_bus]
  split
  next => simp [busReplay_snoc, hu, busNext]
  next hheld =>
    obtain ⟨hts, _⟩ : s.ts = .idle ∧ s.busWaiting = false := by simpa [State.busHeld] using hheld
    have hh : s.hung = false := by
      by_contra hhung
      obtain ⟨_, _, _, hl, _⟩ := h.1.hungWhy (by simpa using hhung)
      rw [hts] at hl
      cases hl
    rw [(State.busTraced_iff hh (by simp [hts])).1 h.2, hts]

/-- A block whose registers are those of the reset table is coherent (R38). -/
theorem coherent_of_reset_values {s : State} (h : s.HasResetValues) (hmem : memWf s.fb = true)
    (hpar : s.params.wf = true) : s.Coherent := by
  obtain ⟨_, _, h1, h2, h3, h4, h5, _, h6, _, hrbf, _, _, hts, _, huq, _, hw, _, hst, hh, hf, hl⟩ := h
  constructor <;> simp [*, Wait.isAck, Wait.isSend, State.alive, State.busWaiting]

theorem resetBlock_hasResetValues (s : State) : s.resetBlock.HasResetValues := by simp [State.HasResetValues]

theorem resetBlock_inv {s : State} (h : s.Inv) : s.resetBlock.Inv :=
  ⟨coherent_of_reset_values (resetBlock_hasResetValues s) rfl h.1.params,
    (State.busTraced_iff rfl (by simp)).2 (resetBlock_replay h)⟩

/-! ### Every move -/

theorem Move.inv {a : Option Turn} {s t : State} (h : Move a s t) (hi : s.Inv) : t.Inv := by
  cases h with
  | stay => exact hi
  | issue m rest hr hw hq => exact issueOp_inv hi hr hw (by simp [hq])
  | retire hr hw hq => exact retire_inv hi hr hw hq
  | delayDone n hr hw he => exact delay_finish_inv hi hr hw
  | complete m e es t hr hw he hc => exact (complete_completion hc).inv hi.answered hr hw
  | drop e es hr he => exact hi.answered
  | timeout hr hb hm he => exact timeout_inv hi hr hm
  | word w ws t hc hq ht => exact takeWord_inv hi.presented hc ht
  | tick n ha => exact hi.tick n
  | reset ha => exact resetBlock_inv hi
  | read r ha => exact hi.answer r

/-- Settles O58: the invariant of the next state, move by move. -/
theorem invariantIsKept : Obligations.InvariantIsKept := by
  intro s t hi h
  exact (step_move h).inv hi.turned

end Sys2Proof.Machine
end

section
/-! PROOFS. What the parts of the state say: the pixel map, the traces, the configuration, the engine, the ports,
reset. -/

namespace Sys2Proof.Machine

/-! ### The pixel map (R33) -/

/-- Settles O31: a pixel has one index and one bit, and byte `i`, bit `b` is pixel `(i mod 128, 8 (i div 128) + b)`. -/
theorem pixelMapIsBijective : Obligations.PixelMapIsBijective := by
  refine ⟨fun _ _ _ _ => rfl, fun x y hx hy => ⟨rfl, pixelIdx_lt hx hy, Nat.mod_lt _ (by decide)⟩,
    fun x y x' y' hx _ hx' _ hi hb => pixelIdx_inj hx hx' hi hb, fun i b hi hb => ?_⟩
  refine ⟨i % 128, 8 * (i / 128) + b, by omega, by omega, ?_, by omega⟩
  simp only [pixelIdx, pageH, fbW]
  omega

/-! ### Parameters, framebuffer, engine -/

/-- Settles O52: no move writes the configuration. -/
theorem parametersNeverChange : Obligations.ParametersNeverChange := by
  intro s t h
  cases step_move h with
  | issue m rest hr hw hq => exact (congrArg State.params (issueOp_frame m _) :)
  | complete m e es t hr hw he hc => exact (congrArg State.params (complete_completion hc).frame :)
  | word w ws t hc hq ht => exact (congrArg State.params (takeWord_frame ht hc) :)
  | _ => rfl

/-- Settles O39: of the moves, only an issue and a reset can write the framebuffer. -/
theorem onlyDrawingWritesTheFramebuffer : Obligations.OnlyDrawingWritesTheFramebuffer := by
  intro s t h hreset hdraw hclear i
  suffices hfb : t.fb = s.fb ∧ t.fbEpoch = s.fbEpoch by rw [State.fbByte, hfb.1, hfb.2]; rfl
  cases step_move h with
  | issue m rest hr hw hq =>
    have hhead : s.uq.head? = some m := congrArg List.head? hq
    rw [hhead] at hdraw hclear
    exact ⟨issueOp_fb _ (fun hm => hclear (by rw [hm])) (fun d hm => hdraw d (by rw [hm])),
      (congrArg State.fbEpoch (issueOp_frame m _) :)⟩
  | complete m e es t hr hw he hc =>
    have hframe := (complete_completion hc).frame
    exact ⟨(congrArg State.fb hframe :), (congrArg State.fbEpoch hframe :)⟩
  | word w ws t hc hq ht =>
    have hframe := takeWord_frame ht hc
    exact ⟨(congrArg State.fb hframe :), (congrArg State.fbEpoch hframe :)⟩
  | reset ha => exact absurd ha hreset
  | _ => exact ⟨rfl, rfl⟩

/-- A move sets `ON` only as the issue of `ENABLE`, and clears it only as a reset (R25). -/
theorem Move.on {a : Option Turn} {s t : State} (h : Move a s t) :
    t.on = s.on ∨ (s.uq.head? = some .enable ∧ t.on = true ∧ t.brg = s.params.brgValue)
      ∨ (a = some .reset ∧ t.on = false) := by
  cases h with
  | issue m rest hr hw hq =>
    rcases issueOp_on m s with hon | ⟨rfl, hon⟩
    · exact .inl hon
    · exact .inr (.inl ⟨by rw [hq]; rfl, hon⟩)
  | complete m e es t hr hw he hc => exact .inl (congrArg State.on (complete_completion hc).frame :)
  | word w ws t hc hq ht => exact .inl (congrArg State.on (takeWord_frame ht hc) :)
  | reset ha => exact .inr (.inr ⟨ha, rfl⟩)
  | _ => exact .inl rfl

/-- Settles O55: by the one move that sets `ON` and the one that clears it. -/
theorem engineEnabledOnlyBySetup : Obligations.EngineEnabledOnlyBySetup := by
  intro s t h
  rcases (step_move h).on with hon | ⟨hq, hon, hbrg⟩ | ⟨hreset, hoff⟩
  · rw [State.turned_on] at hon
    exact ⟨fun h0 h1 => by simp [hon, h0] at h1, fun h1 h0 => by simp [hon, h1] at h0⟩
  · exact ⟨fun _ _ => ⟨hq, hbrg⟩, fun _ h0 => by simp [hon] at h0⟩
  · exact ⟨fun _ h1 => by simp [hoff] at h1, fun _ _ => hreset⟩

/-! ### The traces (R36) -/

/-- `l'` is `l` or has one more entry at the end. -/
def Grown {α : Type} (l l' : List α) : Prop := l' = l ∨ ∃ a, l' = l ++ [a]

theorem Grown.rfl {α : Type} {l : List α} : Grown l l := .inl (Eq.refl l)

theorem Grown.snoc {α : Type} {l : List α} (a : α) : Grown l (l ++ [a]) := .inr ⟨a, Eq.refl _⟩

/-- A completion puts one event on `BUS`; that of a `RECV` puts its byte on `RSP` too. -/
theorem Completion.grown {m : MicroOp} {s t : State} (h : Completion s m t) :
    Grown s.bus t.bus ∧ Grown s.rsp t.rsp ∧ Grown s.cpl t.cpl := by
  cases h with
  | recv d => exact ⟨.snoc _, .snoc d, .rfl⟩
  | _ => exact ⟨.snoc _, .rfl, .rfl⟩

theorem Move.grown {a : Option Turn} {s t : State} (h : Move a s t) :
    Grown s.bus t.bus ∧ Grown s.rsp t.rsp ∧ Grown s.cpl t.cpl := by
  cases h with
  | issue m rest hr hw hq =>
    have hframe := issueOp_frame m s
    exact ⟨.inl (congrArg State.bus hframe :), .inl (congrArg State.rsp hframe :), .inl (congrArg State.cpl hframe :)⟩
  | retire hr hw hq => exact ⟨.rfl, .rfl, .snoc s.st⟩
  | complete m e es t hr hw he hc => exact (complete_completion hc).grown
  | timeout hr hb hm he => exact ⟨.rfl, .rfl, .snoc Status.timeout⟩
  | word w ws t hc hq ht =>
    have hframe := takeWord_frame ht hc
    exact ⟨.inl (congrArg State.bus hframe :), .inl (congrArg State.rsp hframe :), .inl (congrArg State.cpl hframe :)⟩
  | reset ha =>
    refine ⟨?_, .rfl, .rfl⟩
    rw [State.resetBlock_bus]
    split
    · exact .snoc BusEvent.rst
    · exact .rfl
  | _ => exact ⟨.rfl, .rfl, .rfl⟩

/-- Settles O53: move by move. -/
theorem tracesOnlyGrow : Obligations.TracesOnlyGrow := fun _ _ h => (step_move h).grown

/-! ### `BUS` and `ts` (R27) -/

theorem busOpen_snoc (l : List BusEvent) (e : BusEvent) :
    busOpen (l ++ [e]) = match e with
      | .s => true
      | .p | .rst => false
      | .sr | .tx _ _ | .rx _ | .ma _ => busOpen l := by
  cases e <;> simp [busOpen]

/-- In `IDLE` only `S` and `RST` are steps of a path, and only `P` and `RST` lead back to it (R111). -/
theorem busNext_idle {u t : TxState} {e : BusEvent} (h : busNext u e = some t) :
    match e with
    | .s => t ≠ .idle
    | .p | .rst => t = .idle
    | .sr | .tx _ _ | .rx _ | .ma _ => u ≠ .idle ∧ t ≠ .idle := by
  cases e with
  | tx b a =>
    simp only [busNext, Option.ite_none_right_eq_some, Option.some.injEq] at h
    obtain ⟨hl, rfl⟩ := h
    refine ⟨fun hu => by simp [hu, legal] at hl, ?_⟩
    split
    · rcases tsAfterSend_cases hl with hb | hb | hb <;> simp [hb]
    · simp
  | ma a =>
    simp only [busNext, Option.ite_none_right_eq_some, Option.some.injEq] at h
    obtain ⟨hl, rfl⟩ := h
    refine ⟨fun hu => by simp [hu, legal] at hl, ?_⟩
    rcases tsAfterAck_cases a with ha | ha <;> simp [ha]
  | rst => cases h; rfl
  | _ => cases u <;> simp [busNext, legal] at h <;> simp [← h]

/-- A path of the transaction state machine is back in `IDLE` exactly when every START of it is closed. -/
theorem busOpen_of_replay {l : List BusEvent} {t : TxState} (h : busReplay l = some t) :
    busOpen l = decide (t ≠ .idle) := by
  induction l using List.reverseRecOn generalizing t with
  | nil => cases h; rfl
  | append_singleton l e ih =>
    rw [busReplay_snoc, Option.bind_eq_some_iff] at h
    obtain ⟨u, hu, hstep⟩ := h
    have hidle := busNext_idle hstep
    rw [busOpen_snoc, ih hu]
    cases e <;> simp_all

/-- Settles O59: the trace of a state of the invariant ends in `ts`, or outside `IDLE` where `ts` is not `IDLE`. -/
theorem idleMeansEveryStartMatched : Obligations.IdleMeansEveryStartMatched := by
  intro s ⟨hc, hb⟩
  unfold State.BusTraced at hb
  split at hb
  next hh =>
    obtain ⟨_, _, _, hl, _⟩ := hc.hungWhy hh
    rw [busOpen_of_replay hb]
    have : s.ts ≠ .idle := by intro ht; rw [ht] at hl; cases hl
    simp [this]
  next =>
    split at hb
    next ht =>
      obtain ⟨u, hu, hl⟩ := hb
      have : u ≠ .idle := by rintro rfl; cases hl
      simp [busOpen_of_replay hu, ht, this]
    next => simp [busOpen_of_replay hb]

/-- Settles O60: the request bits are those of one wait. -/
theorem atMostOneRequest : Obligations.AtMostOneRequest := fun _ h => h.1.requests.at_most_one

/-! ### Reset (R38, R180, R181) -/

/-- A block with the values of the reset table is ready. -/
theorem State.HasResetValues.cmdReady {s : State} (h : s.HasResetValues) : s.cmdReady = true := by
  obtain ⟨_, _, _, _, _, _, _, _, _, _, _, _, _, _, hb, _, _, _, _, _, hh, hf, _⟩ := h
  simp [State.cmdReady, State.alive, hb, hh, hf]

theorem reset_hasResetValues : State.reset.HasResetValues := by simp [State.HasResetValues, State.reset]

/-- Settles O48: the reset state has the values of the table, and nothing is listed or recorded in it. -/
theorem resetValues : Obligations.ResetValues :=
  ⟨reset_hasResetValues, reset_hasResetValues.cmdReady, fun _ => rfl, rfl, rfl, rfl⟩

/-- The free value of `POLL_TIMEOUT` is not 0. -/
theorem defaultParams_wf : defaultParams.wf = true := by
  have hpoll : defaultParams.pollTimeout ≠ 0 := by
    have := Config.pollTimeoutLessOne.isLt
    simp only [defaultParams]
    bv_omega
  simp only [Params.wf, Bool.and_eq_true, decide_eq_true_eq]
  exact ⟨⟨⟨hpoll, by decide⟩, by decide⟩, rfl⟩

/-- Settles O57: the values of the reset table are coherent, and the empty trace ends in `IDLE`. -/
theorem invariantAtReset : Obligations.InvariantAtReset :=
  ⟨coherent_of_reset_values reset_hasResetValues reset_memWf defaultParams_wf,
    (State.busTraced_iff rfl (by decide)).2 rfl⟩

/-- Where a reset finds the bus held (R181). -/
theorem State.busHeld_iff {s : State} :
    s.busHeld = true ↔ s.ts ≠ .idle ∨ (s.wst ≠ .ready ∧ ∀ n, s.wst ≠ .waiting (.delay n)) := by
  cases hw : s.wst with
  | ready => simp [State.busHeld, State.busWaiting, hw]
  | waiting m => cases m <;> simp [State.busHeld, State.busWaiting, hw]

/-- Settles O49: the reset event field by field; `RST` goes to `BUS` where `busHeld` says so. -/
theorem resetEvent : Obligations.ResetEvent := by
  intro s ts hs
  refine ⟨_, step_turn hs, resetBlock_hasResetValues _, (resetBlock_hasResetValues _).cmdReady, fun _ => rfl, rfl, rfl,
    rfl, rfl, rfl, rfl, rfl, rfl, ?_, ?_⟩
  · intro hopen
    have hheld : State.busHeld { s with sched := ts } = true := by
      refine State.busHeld_iff.2 (hopen.imp_right fun ⟨m, hm, hw⟩ => ?_)
      cases m <;> simp [MicroOp.isBus] at hm <;> simp [hw]
    simp [hheld]
  · intro hidle hwait
    have hheld : ¬ State.busHeld { s with sched := ts } = true := by
      rw [State.busHeld_iff]
      rcases hwait with hw | ⟨n, hw⟩ <;> simp [hidle, hw]
    simp [hheld]

/-! ### Ports (R30, R31, R34) -/

/-- Settles O51: a read is the turn of its port, and its answer goes to the record. -/
theorem portReadsHaveNoSideEffect : Obligations.PortReadsHaveNoSideEffect := by
  refine ⟨fun s i ts hs => step_turn hs, fun s i ts hs hb => ?_, fun s i ts hs _ => ⟨_, step_turn hs⟩⟩
  rw [step_turn hs]
  simp [turnStep, State.answer, fbPort, hb, State.fbByte]

/-! ### The CSR map (R30) -/

/-- A field at bit 0 is the word. -/
theorem place_zero {k : Nat} (v : BitVec k) : place 0 v = v.setWidth 32 := by simp [place]

/-- One bit of a field placed in a word. -/
theorem place_getLsbD {k : Nat} (n : Nat) (v : BitVec k) (j : Nat) :
    (place n v).getLsbD j = (decide (j < 32) && decide (n ≤ j) && v.getLsbD (j - n)) := by
  rw [place, BitVec.getLsbD_shiftLeft, BitVec.getLsbD_setWidth]
  by_cases hj : j < 32
  · have hsub : j - n < 32 := by omega
    by_cases hn : n ≤ j
    · simp [hj, hsub, hn, Nat.not_lt.2 hn]
    · simp [hn, Nat.lt_of_not_le hn]
  · simp [hj]

/-- A field of one bit shows at its own bit only. -/
theorem place_bit_getLsbD {n : Nat} (hn : n < 32) (v : BitVec 1) (j : Nat) :
    (place n v).getLsbD j = (decide (j = n) && v[0]) := by
  rw [place_getLsbD]
  by_cases hj : j = n
  · subst hj; simp [hn]
  · by_cases hlt : n ≤ j
    · rw [BitVec.getLsbD_of_ge v (j - n) (by omega)]; simp [hj]
    · simp [hj, hlt]

@[simp] theorem bit_getElem_zero (b : Bool) : (bit b)[0] = b := by cases b <;> rfl

section Views
variable (s : State) (k : Nat)

/-- View 0 holds the request bits, `ACKDT` and `ON`. -/
theorem csrView_zero_getLsbD : (csrView s 0).getLsbD k =
    (decide (k = 0) && s.sen || decide (k = 1) && s.rsen || decide (k = 2) && s.pen || decide (k = 3) && s.rcen
      || decide (k = 4) && s.acken || decide (k = 5) && s.ackdt.getLsbD 0 || decide (k = 15) && s.on) := by
  simp [csrView, place_bit_getLsbD]

/-- View 1 holds `RBF`, `TRSTAT` and `ACKSTAT`. -/
theorem csrView_one_getLsbD : (csrView s 1).getLsbD k =
    (decide (k = 1) && s.rbf || decide (k = 14) && s.trstat || decide (k = 15) && s.ackstat.getLsbD 0) := by
  simp [csrView, place_bit_getLsbD]

/-- View 5 holds `ts` from bit 0, four single bits, and `st` from bit 8. -/
theorem csrView_five_getLsbD : (csrView s 5).getLsbD k =
    (decide (k < 32) && s.ts.code.getLsbD k || decide (k = 4) && s.busy || decide (k = 5) && decide (s.wst ≠ .ready)
      || decide (k = 6) && s.hung || decide (k < 32) && decide (8 ≤ k) && s.st.code.getLsbD (k - 8)) := by
  simp [csrView, place_bit_getLsbD, place_getLsbD]

theorem csrView_reserved {i : BitVec 4} (h : 8 ≤ i.toNat) : csrView s i = 0 := by
  unfold csrView
  split
  case h_9 => rfl
  all_goals omega

end Views

/-- Settles O50: view by view; the codes of `ts`, `st` and `FAULT` are read off their definitions. -/
theorem csrMap : Obligations.CsrMap := by
  intro s
  refine ⟨fun k => ?_, fun k => ?_, place_zero _, place_zero _, place_zero _, ?_, ?_, ?_, ?_, ?_, ?_, ?_, ?_,
    place_zero _, fun i hi => csrView_reserved s hi⟩
  · rw [csrView_zero_getLsbD]
    split <;> simp_all
  · rw [csrView_one_getLsbD]
    split <;> simp_all
  · trans s.ts.code
    · refine BitVec.eq_of_getLsbD_eq fun i hi => ?_
      rw [BitVec.getLsbD_extractLsb', csrView_five_getLsbD]
      interval_cases i <;> simp
    · cases s.ts <;> rfl
  · rw [csrView_five_getLsbD]; simp
  · rw [csrView_five_getLsbD]; simp
  · rw [csrView_five_getLsbD]; simp
  · rw [csrView_five_getLsbD]; simp
  · trans s.st.code
    · refine BitVec.eq_of_getLsbD_eq fun i hi => ?_
      rw [BitVec.getLsbD_extractLsb', csrView_five_getLsbD]
      interval_cases i <;> simp
    · cases s.st <;> rfl
  · refine BitVec.eq_of_getLsbD_eq fun i hi => ?_
    rw [BitVec.getLsbD_extractLsb', csrView_five_getLsbD, BitVec.getLsbD_of_ge s.ts.code _ (by omega),
      BitVec.getLsbD_of_ge s.st.code _ (by omega)]
    have hfield : 10 + i ≠ 4 ∧ 10 + i ≠ 5 ∧ 10 + i ≠ 6 := by omega
    simp [hfield]
  · trans place 0 s.fault.code
    · rfl
    · cases s.fault <;> rfl

end Sys2Proof.Machine
end

section
/-! PROOFS. The encoding (spec/30_encoding.md): a word is its format, what the decoder makes of a first word, and the
round trips of the decoder and the encoder. -/

namespace Sys2Proof

/-! ### A word without reserved bits is its format (R81) -/

section Formats
variable {w : Word} {op : Byte}

/-- The bits of a field that is 0. -/
theorem getElem_of_extractLsb'_eq_zero {lo n : Nat} (h : w.extractLsb' lo n = 0#n) (j : Nat) (hj : j < 32)
    (hlo : lo ≤ j) (hhi : j < lo + n) : w[j] = false := by
  have hbit := congrArg (fun v => v.getLsbD (j - lo)) h
  have hlt : j - lo < n := by omega
  simpa [hlt, Nat.add_sub_cancel' hlo, BitVec.getLsbD_eq_getElem hj] using hbit

theorem fmtZ_eq (h : opField w = op ∧ w.extractLsb' 0 24 = 0#24) : fmtZ op = w := by
  obtain ⟨rfl, hres⟩ := h
  have hz := getElem_of_extractLsb'_eq_zero hres
  refine BitVec.eq_of_getLsbD_eq fun i hi => ?_
  simp only [fmtZ, opField, place]; interval_cases i <;> simp [hz]

theorem fmtB_eq (h : opField w = op ∧ w.extractLsb' 8 16 = 0#16) : fmtB op (vField w) = w := by
  obtain ⟨rfl, hres⟩ := h
  have hz := getElem_of_extractLsb'_eq_zero hres
  refine BitVec.eq_of_getLsbD_eq fun i hi => ?_
  simp only [fmtB, opField, vField, place]; interval_cases i <;> simp [hz]

theorem fmtA_eq (h : opField w = op ∧ w.extractLsb' 1 23 = 0#23) : fmtA op (aField w) = w := by
  obtain ⟨rfl, hres⟩ := h
  have hz := getElem_of_extractLsb'_eq_zero hres
  refine BitVec.eq_of_getLsbD_eq fun i hi => ?_
  simp only [fmtA, opField, aField, place]; interval_cases i <;> simp [hz]

theorem fmtDRV_eq (h : opField w = op ∧ w.getLsbD 23 = false) :
    fmtDRV op (devField w) (yField w) (vField w) = w := by
  obtain ⟨rfl, hres⟩ := h
  have hz : w[23] = false := by simpa using hres
  refine BitVec.eq_of_getLsbD_eq fun i hi => ?_
  simp only [fmtDRV, opField, devField, yField, vField, place]; interval_cases i <;> simp [hz]

/-- Format `DR` is `DRV` with `v = 0`. -/
theorem fmtDR_eq (h : opField w = op ∧ w.getLsbD 23 = false ∧ w.extractLsb' 0 8 = 0#8) :
    fmtDRV op (devField w) (yField w) 0 = w := by
  obtain ⟨hop, hbit, hv⟩ := h
  have hword := fmtDRV_eq ⟨hop, hbit⟩
  rwa [show vField w = 0 from hv] at hword

theorem fmtXYV_eq (h : opField w = op) : fmtXYV op (xField w) (yField w) (vField w) = w := by
  subst h; exact word_eq_fmtXYV w

/-- A legal payload word is its character in format `C`. -/
theorem fmtB_of_payloadLegal (h : payloadLegal w = true) : fmtB 0 (vField w) = w := by
  have hz := getElem_of_extractLsb'_eq_zero ((payloadLegal_iff w).1 h)
  refine BitVec.eq_of_getLsbD_eq fun i hi => ?_
  simp only [fmtB, vField, place]; interval_cases i <;> simp [hz]

end Formats

/-! ### Commands of one word (R83 to R85) -/

/-- Whatever command the answer `o` holds, `w` is all of its encoding. -/
def AnswersFor (w : Word) (o : Option Instr) : Prop := ∀ i, o = some i → i.wf = true ∧ encode i = [w]

/-- One row of the table put before others. -/
theorem AnswersFor.row {w v : Word} {j : Instr} {o : Option Instr} {c : Prop} [Decidable c] (hwf : j.wf = true)
    (henc : encode j = [v]) (hv : c → v = w) (ho : AnswersFor w o) : AnswersFor w (if c then some j else o) := by
  intro i hi
  by_cases hc : c
  · rw [if_pos hc] at hi
    cases hi
    exact ⟨hwf, hv hc ▸ henc⟩
  · rw [if_neg hc] at hi
    exact ho i hi

/-- What the single-word decoder reads is the encoding of what it answers, row by row. -/
theorem decodeWord_answersFor (w : Word) : AnswersFor w (decodeWord w) := by
  rw [decodeWord_eq]
  exact .row rfl rfl fmtZ_eq <| .row rfl rfl fmtZ_eq <| .row rfl rfl fmtZ_eq <| .row rfl rfl fmtB_eq <|
    .row rfl rfl fmtZ_eq <| .row rfl rfl fmtA_eq <| .row rfl rfl fmtZ_eq <| .row rfl rfl fmtDRV_eq <|
    .row rfl rfl fmtDR_eq <| .row rfl rfl fmtDRV_eq <| .row rfl rfl fmtZ_eq <| .row rfl rfl fmtB_eq <|
    .row rfl rfl fmtXYV_eq <| .row rfl rfl fmtZ_eq <| .row rfl rfl fmtZ_eq <| .row rfl rfl fmtXYV_eq <|
    fun i h => by cases h

theorem decodeWord_header {w : Word} (h : opField w = 0x26#8) : decodeWord w = none := by
  simp [decodeWord_eq, h]

/-- Bit 23 is reserved in formats `DRV` and `DR`. -/
theorem bit23_fmtDRV (op : Byte) (dev : BitVec 7) (reg v : Byte) : (fmtDRV op dev reg v)[23] = false :=
  zero_fmtDRV op v reg dev

/-! ### The decoder by its first word (R86) -/

section FirstWord
variable {w : Word}

theorem decode_of_decodeWord_some {i : Instr} (h : decodeWord w = some i) (ws : List Word) :
    decode (w :: ws) = .instr i ws := by
  have hop : opField w ≠ 0x26#8 := fun hop => by simp [decodeWord_header hop] at h
  simp [decode, isMsgHeader_eq, hop, h]

theorem decode_of_decodeWord_none (hop : opField w ≠ 0x26#8) (h : decodeWord w = none) (ws : List Word) :
    decode (w :: ws) = .illegal := by
  simp [decode, isMsgHeader_eq, hop, h]

variable (hop : opField w = 0x26#8)
include hop

theorem payloadCount_header : payloadCount w = (vField w).toNat := by
  simp [payloadCount, isMsgHeader_eq, hop]

theorem decode_header_more {ws : List Word} (hlen : ws.length < (vField w).toNat) : decode (w :: ws) = .more := by
  simp [decode, isMsgHeader_eq, hop, payloadCount_header hop, hlen]

/-- A header with all its payload words: their legality decides. -/
theorem decode_header {ws : List Word} (hlen : (vField w).toNat ≤ ws.length) :
    decode (w :: ws) =
      if (ws.take (vField w).toNat).all payloadLegal then
        .instr (.oledMsg (xField w) (yField w) ((ws.take (vField w).toNat).map vField)) (ws.drop (vField w).toNat)
      else .illegal := by
  simp [decode, isMsgHeader_eq, hop, payloadCount_header hop, Nat.not_lt.2 hlen]

end FirstWord

/-- The two ways a stream decodes to a command: one word, or a header with its payload. -/
theorem decode_instr_cases {ws rest : List Word} {i : Instr} (h : decode ws = .instr i rest) :
    (∃ w, ws = w :: rest ∧ decodeWord w = some i)
    ∨ ∃ w ps, ws = w :: (ps ++ rest) ∧ opField w = 0x26#8 ∧ ps.length = (vField w).toNat
        ∧ ps.all payloadLegal = true ∧ i = .oledMsg (xField w) (yField w) (ps.map vField) := by
  cases ws with
  | nil => simp [decode] at h
  | cons w ws =>
    by_cases hop : opField w = 0x26#8
    · right
      by_cases hlen : ws.length < (vField w).toNat
      · simp [decode_header_more hop hlen] at h
      · have hlen' : (vField w).toNat ≤ ws.length := Nat.not_lt.1 hlen
        rw [decode_header hop hlen'] at h
        split at h
        next hlegal =>
          cases h
          exact ⟨w, _, by rw [List.take_append_drop], hop, List.length_take_of_le hlen', hlegal, rfl⟩
        next => cases h
    · left
      cases hw : decodeWord w with
      | none => simp [decode_of_decodeWord_none hop hw] at h
      | some j =>
        rw [decode_of_decodeWord_some hw] at h
        cases h
        exact ⟨w, rfl, hw⟩

/-- A header and its characters decode to the message (R86). -/
theorem decode_message (x y len : Byte) (cs : List Byte) (rest : List Word) (h : cs.length = len.toNat) :
    decode (fmtXYV 0x26 x y len :: (cs.map (fmtB 0) ++ rest)) = .instr (.oledMsg x y cs) rest := by
  have hop : opField (fmtXYV 0x26 x y len) = 0x26#8 := opField_fmtXYV ..
  have hlen : len.toNat = (cs.map (fmtB 0)).length := by rw [List.length_map, h]
  have hlegal : (cs.map (fmtB 0)).all payloadLegal = true := by
    rw [List.all_map, List.all_eq_true]
    exact fun c _ => payloadLegal_fmtB c
  rw [decode_header hop (by simp [h])]
  simp only [xField_fmtXYV, yField_fmtXYV, vField_fmtXYV, hlen, List.take_left, List.drop_left, hlegal, if_true]
  simp [Function.comp_def]

/-! ### The obligations on decoding alone -/

/-- Settles O1: the header of a message asks for its characters; every other command is its row of the table. -/
theorem decodeOfEncode : Obligations.DecodeOfEncode := by
  intro i rest hwf
  cases i with
  | oledMsg x y text =>
    have hlen : text.length ≤ 255 := by simpa [Instr.wf] using hwf
    exact decode_message x y _ text rest (by rw [BitVec.toNat_ofNat]; omega)
  | i2cRdreg dev reg =>
    have hv : (fmtDRV 0x19#8 dev reg 0#8).extractLsb' 0 8 = 0#8 := vField_fmtDRV ..
    exact decode_of_decodeWord_some (by simp [decodeWord_eq, opcode, bit23_fmtDRV, hv]) rest
  | _ => exact decode_of_decodeWord_some (by simp [decodeWord_eq, opcode, bit23_fmtDRV]) rest

/-- Settles O2: a row and its fields give the word back, and legal payload words are their characters. -/
theorem decodedIsEncoded : Obligations.DecodedIsEncoded := by
  intro ws rest i h
  rcases decode_instr_cases h with ⟨w, rfl, hw⟩ | ⟨w, ps, rfl, hop, hlen, hlegal, rfl⟩
  · obtain ⟨hwf, henc⟩ := decodeWord_answersFor w i hw
    exact ⟨hwf, by simp [henc]⟩
  · have hpayload : (ps.map vField).map (fmtB 0) = ps := by
      rw [List.map_map]
      exact (List.map_congr_left fun p hp => fmtB_of_payloadLegal (List.all_eq_true.1 hlegal p hp)).trans
        (List.map_id ps)
    refine ⟨?_, ?_⟩
    · have hlt := (vField w).isLt
      simp only [Instr.wf, List.length_map, decide_eq_true_eq]
      omega
    · simp only [encode, opcode, hpayload, List.length_map, hlen, BitVec.ofNat_toNat, BitVec.setWidth_eq]
      exact congrArg (· :: (ps ++ rest)) (fmtXYV_eq hop).symm

/-- Settles O3: each word runs through the decoder. -/
theorem tableWordsDecode : Obligations.TableWordsDecode := by
  unfold Obligations.TableWordsDecode
  decide

end Sys2Proof
end

section
/-! PROOFS. Accepting a command (R87), and the command port: the step that takes a word, and what it takes. -/

namespace Sys2Proof.Machine

/-! ### What `exec` does (R87, R100, R123) -/

/-- Every command but `I2C_RDMULT` with a count of 0 is accepted with its expansion. -/
theorem exec_eq_accept {i : Instr} (h : ∀ dev reg, i ≠ .i2cRdmult dev reg 0) (s : State) :
    exec i s = accept (expand s.params i) s := by
  cases i with
  | i2cRdmult dev reg count =>
    have hcount : count ≠ 0 := fun hc => h dev reg (by rw [hc])
    simp only [exec, execI2cRdmult, if_neg hcount, expand]
  | _ => rfl

theorem exec_zeroCount (dev : BitVec 7) (reg : Byte) (s : State) : exec (.i2cRdmult dev reg 0) s = refuseOperand s :=
  rfl

/-- Settles O8: the command is accepted with its expansion, and a ready block loads it. -/
theorem acceptLoadsTheExpansion : Obligations.AcceptLoadsTheExpansion := by
  intro i s hr hi
  rw [exec_eq_accept hi, accept_next, if_pos hr]
  rfl

/-- Settles O10: both forms of the accept step ask for a ready block. -/
theorem busyBlockTakesNoCommand : Obligations.BusyBlockTakesNoCommand := by
  intro i s hr
  by_cases hi : ∃ dev reg, i = .i2cRdmult dev reg 0
  · obtain ⟨dev, reg, rfl⟩ := hi
    rw [exec_zeroCount, refuseOperand_next, hr]; rfl
  · rw [exec_eq_accept fun dev reg h => hi ⟨dev, reg, h⟩, accept_next, hr]; rfl

/-- Settles O11: a loaded queue, `OPERAND`, or no change. -/
theorem acceptFrame : Obligations.AcceptFrame := by
  intro i s t h
  rcases exec_cases h with ⟨_, q, rfl⟩ | ⟨_, rfl⟩ | ⟨_, rfl⟩
  all_goals exact ⟨rfl, fun _ => rfl⟩

/-! ### The command port (R86, R87) -/

theorem cmdReady_iff {s : State} :
    s.cmdReady = true ↔ s.hung = false ∧ s.fault = .noFault ∧ (s.busy = false ∨ s.latched ≠ []) := by
  simp [State.cmdReady, State.alive, and_assoc]

/-- A block that can take a word has no command of its own to run. -/
theorem not_running_of_cmdReady {s : State} (h : s.cmdReady = true) : s.running = false := by
  obtain ⟨_, _, hb | hl⟩ := cmdReady_iff.1 h
  · simp [State.running, hb]
  · simp [State.running, hl]

/-- Where no command runs, the default order leaves the step to the host. -/
theorem step_host {s : State} (hr : s.running = false) (hs : s.sched = []) : step s = hostStep s := by
  simp [step, advance, hs, defaultStep, blockStep, completeStep, timeoutStep, hr]

section Word
variable {s : State} {w : Word} {ws : List Word} (hc : s.cmdReady = true) (hs : s.sched = []) (hq : s.hostQ = w :: ws)
include hc hs hq

/-- A ready block takes the host's next word. -/
theorem step_takeWord : step s = takeWord w { s with hostQ := ws } := by
  have hp : s.presented = { s with hostQ := ws } := by rw [State.presented, hq]; rfl
  rw [step_host (not_running_of_cmdReady hc) hs, hostStep, hq]
  simp only [hc, if_true, hp]

/-- The word that completes an illegal command (R84, R85, R161). -/
theorem step_illegal (hd : decode (s.latched ++ [w]) = .illegal) :
    step s = .next { s with hostQ := ws, latched := [], fault := .illegalCmd, busy := true } := by
  obtain ⟨_, hf, _⟩ := cmdReady_iff.1 hc
  rw [step_takeWord hc hs hq]
  simp [takeWord, hd, State.raiseFault, State.unlatched, hf]

/-- The word after which an `OLED_MSG` still lacks payload (R86). -/
theorem step_collect (hd : decode (s.latched ++ [w]) = .more) :
    step s = .next { s with hostQ := ws, latched := s.latched ++ [w], busy := true } := by
  rw [step_takeWord hc hs hq]
  simp only [takeWord, hd]

/-- The word that completes a command (R87). -/
theorem step_exec {i : Instr} {rest : List Word} (hd : decode (s.latched ++ [w]) = .instr i rest) :
    step s = exec i { s with hostQ := ws, latched := [], busy := false } := by
  rw [step_takeWord hc hs hq]
  simp only [takeWord, hd, State.unlatched]

end Word

/-- A host that presents nothing changes nothing. -/
theorem hostStep_nil {s : State} (hq : s.hostQ = []) : hostStep s = .next s := by simp only [hostStep, hq]

/-- A block that is not ready holds the host. -/
theorem hostStep_not_ready {s : State} (hc : s.cmdReady = false) : hostStep s = .next s := by
  unfold hostStep
  split
  · rfl
  · rw [hc]; rfl

/-- A move takes the host's first word, of a block that is ready, or none. -/
theorem Move.hostQ {a : Option Turn} {s t : State} (h : Move a s t) :
    t.hostQ = s.hostQ ∨ s.cmdReady = true ∧ t.hostQ = s.hostQ.tail := by
  cases h with
  | issue m rest hr hw hq => exact .inl (congrArg State.hostQ (issueOp_frame m s) :)
  | complete m e es t hr hw he hc => left; cases complete_completion hc <;> rfl
  | word w ws t hc hq ht => exact .inr ⟨hc, (congrArg State.hostQ (takeWord_frame ht hc) :)⟩
  | _ => exact .inl rfl

/-! ### The obligations on the port -/

/-- Settles O7: the step takes the word, and the words make the command. -/
theorem stepRunsTheDecodedCommand : Obligations.StepRunsTheDecodedCommand :=
  fun _ _ _ _ _ hc hs hq hd => step_exec hc hs hq hd

/-- Settles O9: `cmd_ready` by its definition, the host's turn, and move by move. -/
theorem wordTakenOnlyWhenReady : Obligations.WordTakenOnlyWhenReady := by
  refine ⟨fun _ => cmdReady_iff, fun s ts hc hs => ?_, fun s t h hne => ?_⟩
  · rw [step_turn hs]
    exact hostStep_not_ready hc
  · exact (step_move h).hostQ.resolve_left hne

/-- Settles O6: the decoder on a header, and the step on what it answers. -/
theorem messagePayloadIsCollected : Obligations.MessagePayloadIsCollected := by
  refine ⟨decode_message, fun x y len ws hlen => ?_, fun s w ws hc hs hq hd => step_collect hc hs hq hd,
    fun s hl hs hq => ?_⟩
  · exact decode_header_more (opField_fmtXYV ..) (by simpa using hlen)
  · have hr : s.running = false := by simp [State.running, hl]
    rw [step_host hr hs, hostStep_nil hq]

/-- Settles O4: the row of each format asks for its reserved bits to be 0, and the port faults on what is illegal. -/
theorem reservedBitsAreIllegal : Obligations.ReservedBitsAreIllegal := by
  refine ⟨fun w ws hop hres => ?_, fun w ws hop hres => ?_, fun w ws hop hres => ?_, fun w ws hop hres => ?_,
    fun w ws hop hres => ?_, fun w ws hop hlen ⟨p, hp, hres⟩ => ?_, fun s w ws hc hs hq hd => step_illegal hc hs hq hd⟩
  · simp only [List.mem_cons, List.not_mem_nil, or_false] at hop
    rcases hop with hop | hop | hop | hop | hop | hop | hop | hop
    all_goals exact decode_of_decodeWord_none (by simp [hop]) (by simpa [decodeWord_eq, hop] using hres) ws
  · simp only [List.mem_cons, List.not_mem_nil, or_false] at hop
    rcases hop with hop | hop
    all_goals exact decode_of_decodeWord_none (by simp [hop]) (by simpa [decodeWord_eq, hop] using hres) ws
  · exact decode_of_decodeWord_none (by simp [hop]) (by simpa [decodeWord_eq, hop] using hres) ws
  · simp only [List.mem_cons, List.not_mem_nil, or_false] at hop
    rcases hop with hop | hop
    all_goals exact decode_of_decodeWord_none (by simp [hop]) (by simpa [decodeWord_eq, hop] using hres) ws
  · have hrow : ¬ (w.getLsbD 23 = false ∧ w.extractLsb' 0 8 = 0#8) := fun ⟨hbit, hv⟩ =>
      hres.elim (fun h => by rw [hbit] at h; cases h) (fun h => h hv)
    exact decode_of_decodeWord_none (by simp [hop]) (by simpa [decodeWord_eq, hop] using hrow) ws
  · rw [decode_header hop hlen, if_neg]
    exact fun hlegal => hres ((payloadLegal_iff p).1 (List.all_eq_true.1 hlegal p hp))

/-- Settles O5: no row has the opcode. -/
theorem unknownOpcodesAreIllegal : Obligations.UnknownOpcodesAreIllegal := by
  intro w hop
  simp only [List.mem_cons, List.not_mem_nil, or_false, not_or, BitVec.ofNat_eq_ofNat] at hop
  have hd : ∀ ws, decode (w :: ws) = .illegal :=
    decode_of_decodeWord_none (by simp [hop]) (by simp [decodeWord_eq, hop])
  refine ⟨hd, fun s ws hr hl hs hq => ?_⟩
  obtain ⟨hh, hf, hb⟩ := idleReady_iff.1 hr
  rw [step_illegal (cmdReady_iff.2 ⟨hh, hf, .inl hb⟩) hs hq (by rw [hl]; exact hd []), ← hl]

end Sys2Proof.Machine
end

section
/-! PROOFS. The seven I2C primitives (spec/40_i2c_primitives.md): the legality table as rows, what an issue, a
completion and a wait do in the default order, and what `ts` and `CPL` can become in one move. -/

namespace Sys2Proof.Machine

/-! ### The legality table (R111) -/

/-- The row of a bus micro-operation in the legality table: the values of `ts` in which it may be issued
(`legal_iff_mem_row`). The other micro-operations get no row here. -/
def MicroOp.row : MicroOp → List TxState
  | .start => [.idle]
  | .send _ | .sendFb _ => [.startSent, .addrSentW, .dataSent, .restartSent]
  | .restart | .stop => [.addrSentW, .dataSent, .recvNacked, .nacked]
  | .recv => [.addrSentR, .recvAcked]
  | .ack _ => [.dataRecv]
  | .enable | .fbClear | .fbDraw _ | .delay _ => []

theorem legal_iff_mem_row {m : MicroOp} (hb : m.isBus = true) (t : TxState) : legal m t = true ↔ t ∈ m.row := by
  cases m <;> simp [MicroOp.isBus] at hb <;> cases t <;> simp [legal, MicroOp.row]

/-! ### The issue of a micro-operation (R101, R102) -/

/-- A refused issue sets `FAULT` and nothing else. -/
theorem step_refused {s : State} {m : MicroOp} {rest : List MicroOp} {c : Cause} (h : s.AtHead m rest)
    (hp : pre m s = c) (hc : c ≠ .noFault) : step s = .next { s with fault := c } := by
  obtain ⟨_, hf, hb, _⟩ := running_iff.1 h.1
  rw [step_issue h, issueOp_eq, hp, if_neg hc]
  simp [State.raiseFault, hf, hb]

/-- `NOT_ENABLED` comes before `SEQ`, and `SEQ` is raised outside the row. -/
theorem faultsOutside_row {m : MicroOp} (hb : m.isBus = true) : FaultsOutside m m.row := by
  intro s rest h
  refine ⟨fun hon => step_refused h ?_ (by decide), fun hon hts => step_refused h ?_ (by decide)⟩
  · simp [pre, hb, hon]
  · have hl : legal m s.ts = false := by rwa [← Bool.not_eq_true, legal_iff_mem_row hb]
    simp [pre, hon, hl]

/-- `ENABLE` is refused while a transaction is open. -/
theorem step_enable_refused {s : State} {rest : List MicroOp} (h : s.AtHead .enable rest) (ht : s.ts ≠ .idle) :
    step s = .next { s with fault := .seq } :=
  step_refused h (by simp [pre, MicroOp.isBus, legal, ht]) (by decide)

/-- `ENABLE` is done at its issue (R103). -/
theorem step_enable {s : State} {rest : List MicroOp} (h : s.AtHead .enable rest) (ht : s.ts = .idle) :
    step s = .next { s with brg := s.params.brgValue, on := true, ackstat := 0, uq := rest, upc := s.upc + 1 } := by
  have ⟨_, hw, hq, _⟩ := h
  rw [step_issue h, issueOp_eq, if_pos (pre_noFault.2 ⟨by simp [MicroOp.isBus], by simp [legal, ht]⟩)]
  simp [MicroOp.isLocal, performLocal, State.finish, hw, hq]

/-- The issue of a micro-operation that is not refused leaves `FAULT` as it was. -/
theorem issueOp_fault {m : MicroOp} {s : State} (hp : pre m s = .noFault) : (issueOp m s).fault = s.fault := by
  rw [issueOp_eq, if_pos hp]
  split
  · rw [performLocal_frame]; rfl
  · simp

theorem issued_of_waits {m : MicroOp} (s : State) (h : m.waits = true) : issued m s = m := by
  cases m with
  | sendFb i => cases h
  | _ => rfl

theorem isLocal_of_waits {m : MicroOp} (h : m.waits = true) : m.isLocal = false := by
  cases m with
  | enable | fbClear | fbDraw => cases h
  | _ => rfl

section Issue
variable {s : State} {m : MicroOp} {rest : List MicroOp} (h : s.AtHead m rest)
include h

/-- The issue of a bus micro-operation in its row: the request, and the wait. -/
theorem step_request (hm : m.waits = true) (hb : m.isBus = true) (hon : s.on = true) (ht : s.ts ∈ m.row) :
    step s = .next ((request m s).arm m) := by
  have hp : pre m s = .noFault := pre_noFault.2 ⟨fun _ => hon, (legal_iff_mem_row hb _).2 ht⟩
  rw [step_issue h, issueOp_eq, if_pos hp, issued_of_waits s hm, isLocal_of_waits hm]
  rfl

/-- After the issue the block waits. -/
theorem request_waits : ((request m s).arm m).Waits m := by
  obtain ⟨hr, _, _, hs⟩ := h
  refine ⟨?_, rfl, ?_⟩
  · simpa [running_iff] using hr
  · cases m <;> exact hs

end Issue

/-! ### The wait (R65, R166) -/

/-- The stuck wait of a bus micro-operation. -/
theorem stuckAlone {m : MicroOp} (hb : m.isBus = true) : StuckAlone m := by
  intro s h he ht
  have ⟨hr, hw, _⟩ := h
  refine step_stuck h ?_ ?_
  · unfold completeStep
    rw [if_pos hr, hw, he]
    cases m with
    | delay n => cases hb
    | _ => rfl
  · rw [timeoutStep_bus hr hw hb, if_neg]
    rintro ⟨hm, hle⟩
    rcases ht with hm' | hlt
    · rw [hm'] at hm; cases hm
    · exact absurd hle (BitVec.not_le.2 hlt)

/-- The environment's next completion, where it is the one waited for. -/
theorem step_completed {s t : State} {m : MicroOp} {e : EnvAct} {es : List EnvAct} (h : s.Waits m)
    (he : s.envQ = e :: es) (hc : complete m e { s with envQ := es } = some t) : step s = .next t := by
  refine step_complete h he ?_
  rwa [State.answered, he]

section Complete
variable (s : State)

/-! One equation per completion (R104 to R110). -/

theorem complete_start :
    complete .start .startDone s = some ({ s with sen := false, ts := .startSent }.emit .s).finish := rfl

theorem complete_restart :
    complete .restart .restartDone s = some ({ s with rsen := false, ts := .restartSent }.emit .sr).finish := rfl

theorem complete_stop : complete .stop .stopDone s = some ({ s with pen := false, ts := .idle }.emit .p).finish := rfl

theorem complete_ack (a : BitVec 1) :
    complete (.ack a) .ackDone s = some ({ s with acken := false, ts := tsAfterAck a }.emit (.ma a)).finish := rfl

theorem complete_recv (d : Byte) :
    complete .recv (.rxDone d) s =
      some (({ s with rcen := false, rcv := d, rbf := false, ts := .dataRecv }.pushRsp d).emit (.rx d)).finish := rfl

theorem complete_sendAcked (b : Byte) :
    complete (.send b) (.txDone 0) s =
      some ({ s with trstat := false, ackstat := 0, ts := tsAfterSend b s.ts }.emit (.tx b 0)).finish := rfl

variable {s}

theorem complete_sendHung (b : Byte) (hm : s.params.errMode = .legacyHang) :
    complete (.send b) (.txDone 1) s = some ({ s with trstat := false, ackstat := 1 }.emit (.tx b 1)).hang := by
  simp [complete, completeSend, nackOutcome, hm]

theorem complete_sendNacked (b : Byte) (hm : s.params.errMode = .report) :
    complete (.send b) (.txDone 1) s =
      some { ({ s with trstat := false, ackstat := 1 }.emit (.tx b 1)).finish with
        ts := .nacked, st := .nack, uq := if s.uq.tail = [] then [] else [.stop] } := by
  simp [complete, completeSend, nackOutcome, hm]

end Complete

/-- The direction bit of an address byte, or a data byte, as the statements have it (R106). -/
theorem tsAfterSend_eq (b : Byte) {t : TxState} (h : t ∈ (MicroOp.send b).row) :
    tsAfterSend b t =
      if t = .addrSentW ∨ t = .dataSent then .dataSent else if b.getLsbD 0 then .addrSentR else .addrSentW := by
  simp only [MicroOp.row, List.mem_cons, List.not_mem_nil, or_false] at h
  rcases h with rfl | rfl | rfl | rfl <;> rfl

/-! ### A primitive from its accept to its retirement -/

/-- Every command but `I2C_RDMULT` is accepted by a quiet block (R87). -/
theorem exec_quiet {s : State} (h : s.Quiet) {i : Instr} (hi : ∀ dev reg, i ≠ .i2cRdmult dev reg 0) :
    exec i s = .next (s.load (expand s.params i)) :=
  acceptLoadsTheExpansion i s h.1 hi

/-- A quiet block that has accepted a command is about to issue its first micro-operation. -/
theorem load_atHead {s : State} (h : s.Quiet) (hs : s.sched = []) (m : MicroOp) (rest : List MicroOp) :
    (s.load (m :: rest)).AtHead m rest := by
  obtain ⟨hh, hf, _, hl, hw⟩ := quiet_iff.1 h
  exact ⟨running_iff.2 ⟨hh, hf, rfl, hl⟩, hw, rfl, hs⟩

theorem Completion.sched {m : MicroOp} {s t : State} (h : Completion s m t) : t.sched = s.sched := by cases h <;> rfl

/-- Outside the hang a completion leaves the block running. -/
theorem Completion.running {m : MicroOp} {s t : State} (h : Completion s m t) (hr : s.running = true)
    (ht : t.hung = false) : t.running = true := by
  obtain ⟨_, hf, hb, hl⟩ := running_iff.1 hr
  rw [h.frame]
  exact running_iff.2 ⟨ht, hf, hb, hl⟩

/-- A primitive on the bus takes three steps: issue, completion, retirement (R101). `u` is the state after the
completion, and `v` is what a statement writes for its retirement. -/
theorem runs_primitive {s u v : State} {m : MicroOp} {e : EnvAct} {es : List EnvAct} (hm : m.waits = true)
    (hb : m.isBus = true) (h : s.Quiet) (hs : s.sched = []) (hon : s.on = true) (ht : s.ts ∈ m.row)
    (he : s.envQ = e :: es) (hc : complete m e { (request m (s.load [m])).arm m with envQ := es } = some u)
    (hu : u.hung = s.hung) (hq : u.uq = []) (hv : retire u = v) : Runs 3 (s.load [m]) v := by
  obtain ⟨hh, _⟩ := quiet_iff.1 h
  have hhead := load_atHead h hs m []
  have hwait := request_waits hhead
  have henv : ((request m (s.load [m])).arm m).envQ = e :: es := by cases m <;> exact he
  have hcomp := complete_completion hc
  have hready : u.wst = .ready := (congrArg State.wst hcomp.frame :)
  rw [runs_succ (step_request hhead hm hb hon ht), runs_succ (step_completed hwait henv hc),
    runs_succ (step_retire (hcomp.running hwait.1 (hu.trans hh)) hready hq (hcomp.sched.trans hwait.2.2)), runs_zero,
    hv]

/-! ### `ts` and `CPL` in one move -/

/-- Only the issue of a `STOP` in its row writes `ts` at issue (R110). -/
theorem issueOp_ts (m : MicroOp) (s : State) :
    (issueOp m s).ts = s.ts ∨ m = .stop ∧ legal .stop s.ts = true ∧ (issueOp m s).ts = .stopSent := by
  rw [issueOp_eq]
  split
  next hp =>
    split
    · left; rw [performLocal_frame]; rfl
    · cases m with
      | stop => exact .inr ⟨rfl, (pre_noFault.1 hp).2, rfl⟩
      | _ => exact .inl rfl
  next => exact .inl rfl

/-- A move changes `ts` only as the issue of a `STOP`, as a completion, or as a reset. -/
theorem Move.ts {a : Option Turn} {s t : State} (h : Move a s t) :
    t.ts = s.ts ∨ (s.uq.head? = some .stop ∧ legal .stop s.ts = true ∧ t.ts = .stopSent)
      ∨ (∃ m, s.wst = .waiting m ∧ Completion s.answered m t) ∨ a = some .reset := by
  cases h with
  | issue m rest hr hw hq =>
    rcases issueOp_ts m s with hts | ⟨rfl, hl, hts⟩
    · exact .inl hts
    · exact .inr (.inl ⟨by rw [hq]; rfl, hl, hts⟩)
  | complete m e es t hr hw he hc => exact .inr (.inr (.inl ⟨m, hw, complete_completion hc⟩))
  | word w ws t hc hq ht => exact .inl (congrArg State.ts (takeWord_frame ht hc) :)
  | reset ha => exact .inr (.inr (.inr ha))
  | _ => exact .inl rfl

/-! Where a row leads is an edge of the transaction state machine (R111). -/

theorem start_edge : ∀ t ∈ MicroOp.start.row, tsEdge t .startSent = true := by decide

theorem restart_edge : ∀ t ∈ MicroOp.restart.row, tsEdge t .restartSent = true := by decide

theorem stop_edge : ∀ t ∈ MicroOp.stop.row, tsEdge t .stopSent = true := by decide

theorem recv_edge : ∀ t ∈ MicroOp.recv.row, tsEdge t .dataRecv = true := by decide

theorem ack_edge (a : BitVec 1) : ∀ t ∈ (MicroOp.ack a).row, tsEdge t (tsAfterAck a) = true := by
  rcases tsAfterAck_cases a with ha | ha <;> simp [MicroOp.row, ha, tsEdge]

theorem nack_edge (b : Byte) : ∀ t ∈ (MicroOp.send b).row, tsEdge t .nacked = true := by
  simp [MicroOp.row, tsEdge]

/-- A data byte after a data byte is the one acknowledged byte that leaves `ts` as it was. -/
theorem send_edge (b : Byte) : ∀ t ∈ (MicroOp.send b).row, tsAfterSend b t = t ∨ tsEdge t (tsAfterSend b t) = true := by
  simp only [MicroOp.row, tsAfterSend]
  generalize b.getLsbD 0 = read
  cases read <;> decide

/-- A completion takes `ts` along an edge, or is that of a data byte after a data byte. -/
theorem Completion.tsEdge {m : MicroOp} {s t : State} (h : Completion s m t) (hl : m ≠ .stop → legal m s.ts = true)
    (hstop : m = .stop → s.ts = .stopSent) : t.ts = s.ts ∨ tsEdge s.ts t.ts = true := by
  have hrow : m ≠ .stop → s.ts ∈ m.row := fun hm => (legal_iff_mem_row h.isBus _).1 (hl hm)
  cases h with
  | start => exact .inr (start_edge _ (hrow (by simp)))
  | restart => exact .inr (restart_edge _ (hrow (by simp)))
  | stop => right; rw [hstop rfl]; rfl
  | ack a => exact .inr (ack_edge a _ (hrow (by simp)))
  | recv d => exact .inr (recv_edge _ (hrow (by simp)))
  | sendAcked b => exact send_edge b _ (hrow (by simp))
  | sendHung b hm => exact .inl rfl
  | sendNacked b hm => exact .inr (nack_edge b _ (hrow (by simp)))

/-- A move appends the status at retirement, and else only the timeout of `REPORT` mode (R112, R168). -/
theorem Move.cpl {a : Option Turn} {s t : State} (h : Move a s t) :
    t.cpl = s.cpl ∨ (s.running = true ∧ t.cpl = s.cpl ++ [s.st]) ∨ s.params.errMode = .report := by
  cases h with
  | issue m rest hr hw hq => exact .inl (congrArg State.cpl (issueOp_frame m s) :)
  | retire hr hw hq => exact .inr (.inl ⟨hr, rfl⟩)
  | complete m e es t hr hw he hc => exact .inl (congrArg State.cpl (complete_completion hc).frame :)
  | timeout hr hb hm he => exact .inr (.inr hm)
  | word w ws t hc hq ht => exact .inl (congrArg State.cpl (takeWord_frame ht hc) :)
  | _ => exact .inl rfl

/-- A hung block emits nothing and stays hung until a reset (R107, R165). -/
theorem Move.of_hung {a : Option Turn} {s t : State} (h : Move a s t) (hh : s.hung = true) (ha : a ≠ some .reset) :
    t.bus = s.bus ∧ t.hung = true := by
  have hr : s.running ≠ true := fun hr => by simp [(running_iff.1 hr).1] at hh
  have hc : s.cmdReady ≠ true := fun hc => by simp [(cmdReady_iff.1 hc).1] at hh
  cases h with
  | stay | tick | read => exact ⟨rfl, hh⟩
  | reset hreset => exact absurd hreset ha
  | word w ws t hready => exact absurd hready hc
  | _ => exact absurd ‹s.running = true› hr

/-! ### The obligations on the primitives -/

/-- Settles O13: the rows of the table, `ENABLE`, and the micro-operations without a precondition. -/
theorem preconditionsAreChecked : Obligations.PreconditionsAreChecked := by
  refine ⟨faultsOutside_row rfl, fun b => faultsOutside_row rfl, fun i => faultsOutside_row rfl, faultsOutside_row rfl,
    faultsOutside_row rfl, fun a => faultsOutside_row rfl, faultsOutside_row rfl,
    fun s rest h ht => step_enable_refused h ht, fun s t m rest hm h hstep => ?_⟩
  have hp : pre m s = .noFault := by
    rcases hm with rfl | ⟨d, rfl⟩ | ⟨n, rfl⟩ <;> rfl
  rw [step_issue h, Host.Outcome.next.injEq] at hstep
  obtain ⟨_, hf, _, _⟩ := running_iff.1 h.1
  rw [← hstep, issueOp_fault hp, hf]

/-- Settles O14: `ENABLE` is issued, and the command retires. -/
theorem setupFollowsItsRule : Obligations.SetupFollowsItsRule := by
  refine ⟨by decide, fun s h hs ht => ⟨exec_quiet h (by simp), ?_⟩, fun s rest h ht => step_enable h ht,
    fun s rest h ht => step_enable_refused h ht⟩
  have hhead := load_atHead h hs .enable []
  have hretire := step_retire (s := { s.load [.enable] with
    brg := s.params.brgValue, on := true, ackstat := 0, uq := [], upc := 0 + 1 }) hhead.1 hhead.2.1 rfl hs
  refine (runs_succ (step_enable hhead ht)).2 ((runs_succ hretire).2 (runs_zero.2 ?_))
  simp [retire, State.pushCpl, State.load, State.retired, h.2.2]

/-- Settles O15: `START` is issued in `IDLE`, completed and retired. -/
theorem startFollowsItsRule : Obligations.StartFollowsItsRule := by
  refine ⟨by decide, fun s es h hs hon ht he => ⟨exec_quiet h (by simp), ?_⟩,
    fun s rest h hon ht => step_request h rfl rfl hon (by simp [MicroOp.row, ht]),
    fun s es h he => step_completed h he (complete_start _), stuckAlone rfl, faultsOutside_row rfl⟩
  refine runs_primitive (m := .start) rfl rfl h hs hon (by simp [MicroOp.row, ht]) he (complete_start _) rfl rfl ?_
  cases s; rfl

/-- Settles O16: `RESTART` is issued in its row, completed and retired. -/
theorem restartFollowsItsRule : Obligations.RestartFollowsItsRule := by
  refine ⟨by decide, fun s es h hs hon ht he => ⟨exec_quiet h (by simp), ?_⟩,
    fun s rest h hon ht => step_request h rfl rfl hon ht,
    fun s es h he => step_completed h he (complete_restart _), stuckAlone rfl, faultsOutside_row rfl⟩
  refine runs_primitive (m := .restart) rfl rfl h hs hon ht he (complete_restart _) rfl rfl ?_
  cases s; rfl

/-- Settles O17: `SEND` is issued in its row, acknowledged and retired; `ts` after it by `tsAfterSend_eq`. -/
theorem sendFollowsItsRule : Obligations.SendFollowsItsRule := by
  refine ⟨fun b => ?_, fun s b es h hs hon ht he => ⟨exec_quiet h (by simp), ?_⟩,
    fun s b rest h hon ht => step_request h rfl rfl hon ht, fun s b es h he ht => ?_, fun b => stuckAlone rfl,
    fun b => faultsOutside_row rfl⟩
  · simp [encode, fmtB, opcode, place]
  · rw [← tsAfterSend_eq b ht]
    refine runs_primitive (m := .send b) rfl rfl h hs hon ht he (complete_sendAcked _ b) rfl rfl ?_
    cases s; rfl
  · rw [← tsAfterSend_eq b ht]
    exact step_completed h he (complete_sendAcked _ b)

/-- Settles O18: the two outcomes of `complete`, the `NACKED` column of the table, and the moves of a hung block. -/
theorem nackOutcomeOfSend : Obligations.NackOutcomeOfSend := by
  refine ⟨fun s b es h he => ⟨fun hm => step_completed h he (complete_sendHung b hm),
      fun hm => step_completed h he (complete_sendNacked b hm)⟩,
    fun s b es h hs hon ht hm he => ⟨exec_quiet h (by simp), ?_⟩, fun m hm => ?_,
    fun s t hh hstep ha => (step_move hstep).of_hung hh ha⟩
  · refine runs_primitive (m := .send b) rfl rfl h hs hon ht he (complete_sendNacked b hm) rfl rfl ?_
    cases s; rfl
  · cases m <;> simp [MicroOp.isBus, legal] at hm ⊢

/-- Settles O19: `RECV` is issued in its row, completed with the byte, and retired. -/
theorem recvFollowsItsRule : Obligations.RecvFollowsItsRule := by
  refine ⟨by decide, fun s d es h hs hon ht he => ⟨exec_quiet h (by simp), ?_⟩,
    fun s rest h hon ht => step_request h rfl rfl hon ht,
    fun s d es h he => step_completed h he (complete_recv _ d), stuckAlone rfl, faultsOutside_row rfl⟩
  refine runs_primitive (m := .recv) rfl rfl h hs hon ht he (complete_recv _ d) rfl rfl ?_
  cases s; rfl

/-- Settles O20: `ACK` is issued in `DATA_RECV`, completed and retired. -/
theorem ackFollowsItsRule : Obligations.AckFollowsItsRule := by
  refine ⟨by decide, by decide, fun s a es h hs hon ht he => ⟨exec_quiet h (by simp), ?_⟩,
    fun s a rest h hon ht => step_request h rfl rfl hon (by simp [MicroOp.row, ht]),
    fun s a es h he => step_completed h he (complete_ack _ a), fun a => stuckAlone rfl, fun a => faultsOutside_row rfl,
    rfl, rfl⟩
  refine runs_primitive (m := .ack a) rfl rfl h hs hon (by simp [MicroOp.row, ht]) he (complete_ack _ a) rfl rfl ?_
  cases s; rfl

/-- Settles O21: `STOP` is issued in its row, completed and retired; with another micro-operation at the head, no
move of the block writes `ts`. -/
theorem stopFollowsItsRule : Obligations.StopFollowsItsRule := by
  refine ⟨by decide, fun s es h hs hon ht he => ⟨exec_quiet h (by simp), ?_⟩,
    fun s rest h hon ht => step_request h rfl rfl hon ht,
    fun s es h he => step_completed h he (complete_stop _), stuckAlone rfl, faultsOutside_row rfl,
    fun s t m rest _ hw hq hs hm hstep => ?_⟩
  · refine runs_primitive (m := .stop) rfl rfl h hs hon ht he (complete_stop _) rfl rfl ?_
    cases s; rfl
  · rcases (step_move hstep).ts with hts | ⟨hhead, _⟩ | ⟨n, hwait, _⟩ | hreset
    · exact hts
    · simp [hq, hm] at hhead
    · simp [hw] at hwait
    · rcases hs with hs | hs <;> simp [hs] at hreset

/-- Settles O22: the issue of a `STOP` and every completion take `ts` along an edge. -/
theorem tsFollowsTheTable : Obligations.TsFollowsTheTable := by
  intro s t hi hstep hne ha
  rcases (step_move hstep).ts with hts | ⟨_, hl, hts⟩ | ⟨m, hw, hc⟩ | hreset
  · exact absurd hts hne
  · rw [hts]; exact stop_edge _ ((legal_iff_mem_row rfl _).1 hl)
  · obtain ⟨_, _, _, _, hl⟩ := hi.1.waiting m hw
    exact (hc.tsEdge hl fun hm => hi.1.stopSent.2 (hm ▸ hw)).resolve_left hne
  · exact absurd hreset ha

/-- Settles O23: retirement appends `st`, which in `LEGACY_HANG` mode is `OK` while a command runs. -/
theorem retirementPushesTheStatus : Obligations.RetirementPushesTheStatus := by
  refine ⟨fun s hr hw hq hs => step_retire hr hw hq hs, fun s t hi hm hstep => ?_⟩
  rcases (step_move hstep).cpl with hcpl | ⟨hr, hcpl⟩ | hreport
  · exact .inl hcpl
  · obtain ⟨_, hf, _, _⟩ := running_iff.1 hr
    have hst : s.st = .ok := by
      cases hst : s.st with
      | ok => rfl
      | nack => simp [hi.1.nackWhy hst] at hm
      | timeout => have hfault := hi.1.timeoutWhy.1 hst; simp [hfault] at hf
    exact .inr (by rw [hcpl]; simp [hst])
  · simp [hm] at hreport

end Sys2Proof.Machine
end

section
/-! PROOFS. The composite register transactions (spec/41_i2c_composites.md): the address byte, the acknowledged
micro-operations as a function (`transfer`) that the machine's steps follow (`runs_transfers`), and the commands made
of them. -/

namespace Sys2Proof.Machine

/-! ### The address byte (R53, R106) -/

theorem addrW_eq_append (dev : BitVec 7) : addrW dev = dev ++ 0#1 := by
  change addrW dev = dev.concat false
  refine BitVec.eq_of_getLsbD_eq fun i hi => ?_
  rw [BitVec.getLsbD_concat]
  cases i with
  | zero => simp [addrW]
  | succ i => simp [addrW, hi]

theorem addrR_eq_append (dev : BitVec 7) : addrR dev = dev ++ 1#1 := by
  change addrR dev = dev.concat true
  refine BitVec.eq_of_getLsbD_eq fun i hi => ?_
  rw [BitVec.getLsbD_concat]
  cases i with
  | zero => simp [addrR]
  | succ i => simp [addrR, hi]

/-! `ts` after the bytes of a composite. -/

@[simp] theorem tsAfterSend_addrW (dev : BitVec 7) : tsAfterSend (addrW dev) .startSent = .addrSentW := by
  simp [tsAfterSend, addrW]

@[simp] theorem tsAfterSend_addrR (dev : BitVec 7) : tsAfterSend (addrR dev) .restartSent = .addrSentR := by
  simp [tsAfterSend, addrR]

@[simp] theorem tsAfterSend_addrSentW (b : Byte) : tsAfterSend b .addrSentW = .dataSent := rfl

@[simp] theorem tsAfterSend_dataSent (b : Byte) : tsAfterSend b .dataSent = .dataSent := rfl

/-! ### Between two micro-operations -/

/-- The block runs a command of which `q` is left, and waits for nothing; `AtHead` is the case of a `q` that is not
empty. The agents move in the default order. -/
abbrev State.Left (s : State) (q : List MicroOp) : Prop :=
  s.running = true ∧ s.wst = .ready ∧ s.uq = q ∧ s.sched = []

/-- A quiet block that has accepted a command has its whole expansion left. -/
theorem load_left {s : State} (h : s.Quiet) (hs : s.sched = []) (q : List MicroOp) : (s.load q).Left q := by
  obtain ⟨hh, hf, _, hl, hw⟩ := quiet_iff.1 h
  exact ⟨running_iff.2 ⟨hh, hf, rfl, hl⟩, hw, rfl, hs⟩

/-- With nothing left the command retires (R101, R112). -/
theorem runs_retire {s t : State} (h : s.Left []) (ht : retire s = t) : Runs 1 s t := by
  obtain ⟨hr, hw, hq, hs⟩ := h
  exact (runs_succ (step_retire hr hw hq hs)).2 (runs_zero.2 ht)

/-! ### Acknowledged micro-operations -/

/-- One bus micro-operation from its issue to its completion by the answer `e`; `none` where its issue is refused, where
`e` is not the completion waited for, and for a byte that is not acknowledged. -/
def transfer (op : MicroOp × EnvAct) (s : State) : Option State :=
  if s.on = true ∧ legal op.1 s.ts = true ∧ op.2 ≠ .txDone 1 then
    complete op.1 op.2 ((request op.1 s).arm op.1).answered
  else none

/-- Micro-operations with their answers, one after the other. -/
def transfers : List (MicroOp × EnvAct) → State → Option State
  | [], s => some s
  | op :: ops, s => (transfer op s).bind (transfers ops)

@[simp] theorem request_envQ (m : MicroOp) (s : State) : (request m s).envQ = s.envQ := by cases m <;> rfl

/-- Outside a NACK, a completion drops the head of the queue and hangs nothing. -/
theorem complete_acked {m : MicroOp} {e : EnvAct} {s t : State} (hc : complete m e s = some t) (he : e ≠ .txDone 1) :
    m.waits = true ∧ t.uq = s.uq.tail ∧ t.hung = s.hung ∧ t.envQ = s.envQ := by
  rcases complete_cases hc with
    ⟨rfl, _, rfl⟩ | ⟨rfl, _, rfl⟩ | ⟨rfl, _, rfl⟩ | ⟨a, rfl, _, rfl⟩ | ⟨b, a, rfl, rfl, rfl⟩ | ⟨d, rfl, _, rfl⟩
  · exact ⟨rfl, rfl, rfl, rfl⟩
  · exact ⟨rfl, rfl, rfl, rfl⟩
  · exact ⟨rfl, rfl, rfl, rfl⟩
  · exact ⟨rfl, rfl, rfl, rfl⟩
  · obtain rfl : a = 0 := by_contra fun ha => he (congrArg EnvAct.txDone (bit_eq_one ha))
    exact ⟨rfl, rfl, rfl, rfl⟩
  · exact ⟨rfl, rfl, rfl, rfl⟩

/-- The machine follows `transfer` in two steps, issue and completion. -/
theorem runs_transfer {op : MicroOp × EnvAct} {s t : State} {q : List MicroOp} {es : List EnvAct}
    (h : s.Left (op.1 :: q)) (he : s.envQ = op.2 :: es) (ht : transfer op s = some t) :
    Runs 2 s t ∧ t.Left q ∧ t.envQ = es := by
  obtain ⟨m, e⟩ := op
  unfold transfer at ht
  split at ht
  next hc =>
    obtain ⟨hon, hl, hne⟩ := hc
    obtain ⟨hm, huq, hhung, henv⟩ := complete_acked ht hne
    have hcomp := complete_completion ht
    have hissue := step_request h hm hcomp.isBus hon ((legal_iff_mem_row hcomp.isBus _).1 hl)
    have hwait : ((request m s).arm m).Waits m := request_waits h
    have henvq : ((request m s).arm m).envQ = e :: es := (request_envQ m s).trans he
    obtain ⟨hr, _, hq, _⟩ := h
    obtain ⟨hh, _⟩ := running_iff.1 hr
    have hrun : Runs 2 s t := (runs_succ hissue).2 ((runs_succ (step_complete hwait henvq ht)).2 (runs_zero.2 rfl))
    refine ⟨hrun, ⟨?_, ?_, ?_, ?_⟩, ?_⟩
    · exact hcomp.running hwait.1 (by simpa [hh] using hhung)
    · exact (congrArg State.wst hcomp.frame :)
    · simpa [hq] using huq
    · exact hcomp.sched.trans hwait.2.2
    · rw [henv, State.answered, henvq]; rfl
  next => cases ht

/-- The machine follows `transfers`, two steps each, with `q` left behind them. -/
theorem runs_transfers (ops : List (MicroOp × EnvAct)) {s t : State} {q : List MicroOp} {es : List EnvAct}
    (h : s.Left (ops.map Prod.fst ++ q)) (he : s.envQ = ops.map Prod.snd ++ es) (ht : transfers ops s = some t) :
    Runs (2 * ops.length) s t ∧ t.Left q ∧ t.envQ = es := by
  induction ops generalizing s with
  | nil =>
    cases ht
    exact ⟨runs_zero.2 rfl, h, he⟩
  | cons op ops ih =>
    obtain ⟨u, hu, hut⟩ := Option.bind_eq_some_iff.1 ht
    obtain ⟨hsu, hleft, henv⟩ := runs_transfer h he hu
    obtain ⟨hrun, hrest⟩ := ih hleft henv hut
    refine ⟨?_, hrest⟩
    rw [List.length_cons, Nat.mul_succ, Nat.add_comm]
    exact runs_add hsu hrun

/-- What every transfer does besides its own request, `ts` and the trace. -/
def State.pass (s : State) : State :=
  { s with t0 := s.tick, wst := .ready, uq := s.uq.tail, upc := s.upc + 1, envQ := s.envQ.tail }

section Transfer
variable {s : State} (hon : s.on = true)
include hon

theorem transfer_start (hl : legal .start s.ts = true) :
    transfer (.start, .startDone) s = some { s.pass with sen := false, ts := .startSent, bus := s.bus ++ [.s] } := by
  rw [transfer, if_pos ⟨hon, hl, by simp⟩, complete_start]
  rfl

theorem transfer_restart (hl : legal .restart s.ts = true) :
    transfer (.restart, .restartDone) s =
      some { s.pass with rsen := false, ts := .restartSent, bus := s.bus ++ [.sr] } := by
  rw [transfer, if_pos ⟨hon, hl, by simp⟩, complete_restart]
  rfl

theorem transfer_stop (hl : legal .stop s.ts = true) :
    transfer (.stop, .stopDone) s = some { s.pass with pen := false, ts := .idle, bus := s.bus ++ [.p] } := by
  rw [transfer, if_pos ⟨hon, hl, by simp⟩, complete_stop]
  rfl

/-- The acknowledge bit is written `0#1`, the form `simp` gives the answers in. -/
theorem transfer_send {b : Byte} (hl : legal (.send b) s.ts = true) :
    transfer (.send b, .txDone 0#1) s =
      some { s.pass with
        trn := b, trstat := false, ackstat := 0, ts := tsAfterSend b s.ts, bus := s.bus ++ [.tx b 0] } := by
  rw [transfer, if_pos ⟨hon, hl, by simp⟩]
  exact complete_sendAcked _ b

end Transfer

/-- The closing `STOP` of a command, and its retirement. -/
theorem runs_stop_retire {s t : State} {es : List EnvAct} (h : s.Left [.stop]) (hon : s.on = true)
    (hl : legal .stop s.ts = true) (he : s.envQ = .stopDone :: es)
    (ht : { s with
      pen := false, ts := .idle, t0 := s.tick, bus := s.bus ++ [.p], uq := [], upc := s.upc + 1, envQ := es
      busy := false, cpl := s.cpl ++ [s.st] } = t) : Runs 3 s t := by
  have ⟨_, hw, hq, _⟩ := h
  obtain ⟨hstop, hleft, _⟩ := runs_transfer (op := (.stop, .stopDone)) h he (transfer_stop hon hl)
  refine runs_add hstop (runs_retire hleft ?_)
  simp [← ht, retire, State.pushCpl, State.pass, hw, hq, he]

/-! ### A byte that is not acknowledged (R107, R124) -/

/-- In `LEGACY_HANG` mode the block hangs with the byte still at the head of the queue. -/
theorem runs_send_hung {s : State} {b : Byte} {q : List MicroOp} {es : List EnvAct} (h : s.Left (.send b :: q))
    (hon : s.on = true) (hl : legal (.send b) s.ts = true) (hm : s.params.errMode = .legacyHang)
    (he : s.envQ = .txDone 1 :: es) :
    Runs 2 s { s with
      trn := b, trstat := false, ackstat := 1, t0 := s.tick, hung := true, bus := s.bus ++ [.tx b 1], envQ := es } := by
  have hissue := step_request h rfl rfl hon ((legal_iff_mem_row rfl _).1 hl)
  rw [runs_succ hissue, runs_succ (step_completed (request_waits h) he (complete_sendHung b hm)), runs_zero]
  obtain ⟨_, hw, _⟩ := h
  simp [State.hang, State.arm, request, State.emit, hw]

/-- Settles O29: the NACK leaves `STOP` alone in the queue; `STOP` is sent, and the command retires. -/
theorem nackInCommandAborts : Obligations.NackInCommandAborts := by
  intro s b m m' rest es h hq hon hm he
  have ⟨hr, _, hs⟩ := h
  have hnack := step_completed h he (complete_sendNacked b hm)
  rw [runs_succ hnack]
  refine runs_stop_retire (es := es) ⟨hr, rfl, by simp [hq], hs⟩ hon rfl rfl ?_
  simp [hq, BitVec.add_assoc]

/-- In `REPORT` mode, with more of the command behind the byte, a closing `STOP` is sent and the command retires. -/
theorem runs_send_aborted {s : State} {b : Byte} {m : MicroOp} {q : List MicroOp} {es : List EnvAct}
    (h : s.Left (.send b :: m :: q)) (hon : s.on = true) (hl : legal (.send b) s.ts = true)
    (hm : s.params.errMode = .report) (he : s.envQ = .txDone 1 :: .stopDone :: es) :
    Runs 5 s { s with
      trn := b, trstat := false, ackstat := 1, pen := false, bus := s.bus ++ [.tx b 1, .p], ts := .idle, st := .nack
      wst := .ready, uq := [], upc := s.upc + 2, t0 := s.tick, cpl := s.cpl ++ [.nack], busy := false, envQ := es } := by
  have ⟨_, _, hq, _⟩ := h
  have hissue := step_request h rfl rfl hon ((legal_iff_mem_row rfl _).1 hl)
  exact (runs_succ hissue).2 (nackInCommandAborts _ b (.send b) m q es (request_waits h) hq hon hm he)

/-! ### `I2C_WRREG` (R121) -/

/-- Settles O24: the write transaction runs (`run_writeTxn`), and the command retires. -/
theorem writeRegisterCompletes : Obligations.WriteRegisterCompletes := by
  intro s dev reg v es h hs hon ht he
  refine ⟨addrW_eq_append dev, exec_quiet h (by simp), ?_⟩
  have ⟨hr, hw, _, _⟩ := load_left h hs (writeTxn dev reg v)
  have hrun := run_writeTxn (s.load (writeTxn dev reg v)) dev reg v [] es hr hw hs (by simp) hon ht he
  refine runs_add hrun (runs_retire ⟨hr, hw, rfl, hs⟩ ?_)
  obtain ⟨_, _, _, _, hready⟩ := quiet_iff.1 h
  simp [retire, State.pushCpl, State.load, State.retired, writeTrace, hready]

/-- The bytes of `writeTxn` in the order they are sent. -/
def writeBytes (dev : BitVec 7) (reg v : Byte) : List Byte := [addrW dev, reg, v]

/-- `START` and the first `k` bytes of `writeTxn`, acknowledged. -/
def writeOps (dev : BitVec 7) (reg v : Byte) (k : Nat) : List (MicroOp × EnvAct) :=
  (.start, .startDone) :: ((writeBytes dev reg v).take k).map fun b => (.send b, .txDone 0)

/-- The state `t` in which byte `k` of an `I2C_WRREG` accepted in `s` is about to be sent, the bytes before it
acknowledged: the byte may be sent, and what has become of the trace, `upc`, and what stays. -/
structure WroteUpTo (dev : BitVec 7) (reg v : Byte) (k : Nat) (s t : State) : Prop where
  sendLegal : legal (.send ((writeBytes dev reg v).getD k 0)) t.ts = true
  on : t.on = true
  upc : t.upc = BitVec.ofNat 16 (k + 1)
  rsp : t.rsp = s.rsp
  cpl : t.cpl = s.cpl
  params : t.params = s.params
  bus : t.bus = s.bus ++ [.s] ++ ([.tx (addrW dev) 0, .tx reg 0, .tx v 0].take k : List BusEvent)

section WriteUpTo
variable {s : State} {k : Nat} {es : List EnvAct} (dev : BitVec 7) (reg v : Byte) (hk : k < 3)
include hk

theorem transfers_writeOps (hon : s.on = true) (ht : s.ts = .idle) :
    ∃ t, transfers (writeOps dev reg v k) (s.load (writeTxn dev reg v)) = some t ∧ WroteUpTo dev reg v k s t := by
  obtain rfl | rfl | rfl : k = 0 ∨ k = 1 ∨ k = 2 := by omega
  all_goals
    simp only [writeOps, writeBytes, transfers, List.take, List.map]
    simp [hon, ht, legal, transfer_start, transfer_send, State.pass, State.load]
    exact ⟨rfl, rfl, rfl, rfl, rfl, rfl, by simp⟩

/-- After `START` and `k` acknowledged bytes the next byte is at the head of the queue, with the `STOP` at least behind
it. -/
theorem runs_writeOps (h : s.Quiet) (hs : s.sched = []) (hon : s.on = true) (ht : s.ts = .idle)
    (he : s.envQ = [.startDone] ++ List.replicate k (.txDone 0) ++ es) :
    ∃ (t : State) (m : MicroOp) (q : List MicroOp),
      Runs (2 * (k + 1)) (s.load (writeTxn dev reg v)) t ∧ WroteUpTo dev reg v k s t ∧ t.envQ = es ∧
      t.Left (.send ((writeBytes dev reg v).getD k 0) :: m :: q) ∧
      .send ((writeBytes dev reg v).getD k 0) :: m :: q = (writeTxn dev reg v).drop (k + 1) := by
  obtain ⟨t, htrans, hwrote⟩ := transfers_writeOps dev reg v hk hon ht
  have hload := load_left h hs (writeTxn dev reg v)
  obtain rfl | rfl | rfl : k = 0 ∨ k = 1 ∨ k = 2 := by omega
  all_goals
    obtain ⟨hrun, hleft, henv⟩ := runs_transfers (writeOps dev reg v _) hload he htrans
    exact ⟨t, _, _, hrun, hwrote, henv, hleft, rfl⟩

end WriteUpTo

/-- Settles O25: the bytes before the k-th run as acknowledged transfers; then the hang, or the abort of O29. -/
theorem writeRegisterNack : Obligations.WriteRegisterNack := by
  intro s dev reg v k es h hs hon ht hk he
  refine ⟨exec_quiet h (by simp), ?_⟩
  obtain ⟨t, m, q, hrun, hwrote, henv, hleft, hdrop⟩ :=
    runs_writeOps (es := .txDone 1 :: .stopDone :: es) dev reg v hk h hs hon ht (by simpa using he)
  have ⟨hr, _, hq, _⟩ := hleft
  obtain ⟨_, _, hbusy, _⟩ := running_iff.1 hr
  cases hm : s.params.errMode with
  | legacyHang =>
    have hhung := runs_send_hung hleft hwrote.on hwrote.sendLegal (hwrote.params ▸ hm) henv
    have hall := runs_add hrun hhung
    rw [show 2 * (k + 1) + 2 = 4 + 2 * k by omega] at hall
    refine ⟨_, ?_, ?_, fun _ => ⟨hall, rfl, hbusy, hwrote.cpl, hq.trans hdrop, hwrote.upc⟩, fun hne => ?_⟩
    · simp [hwrote.bus, writeBytes]
    · exact hwrote.rsp
    · cases hne
  | report =>
    have haborted := runs_send_aborted hleft hwrote.on hwrote.sendLegal (hwrote.params ▸ hm) henv
    have hall := runs_add hrun haborted
    rw [show 2 * (k + 1) + 5 = 7 + 2 * k by omega] at hall
    refine ⟨_, ?_, ?_, fun hne => ?_, fun _ => ⟨hall, rfl, rfl, ?_, ?_⟩⟩
    · simp [hwrote.bus, writeBytes]
    · exact hwrote.rsp
    · cases hne
    · exact congrArg (· ++ [Status.nack]) hwrote.cpl
    · simp [hwrote.upc, BitVec.ofNat_add, BitVec.add_assoc]

/-! ### `I2C_RDREG` and `I2C_RDMULT` (R122, R123) -/

/-- The head of a register read, every byte acknowledged. -/
theorem transfers_readHead {s : State} {dev : BitVec 7} {reg : Byte} {q : List MicroOp} {es : List EnvAct}
    (h : s.Left (readHead dev reg ++ q)) (hon : s.on = true) (ht : s.ts = .idle) (he : s.envQ = readHeadAnswers ++ es) :
    transfers ((readHead dev reg).zip readHeadAnswers) s = some { s with
      sen := false, rsen := false, trstat := false, ackstat := 0, trn := addrR dev, t0 := s.tick, ts := .addrSentR
      uq := q, upc := s.upc + 5, envQ := es, bus := s.bus ++ readHeadTrace dev reg } := by
  obtain ⟨_, hw, hq, _⟩ := h
  simp [readHead, readHeadAnswers, readHeadTrace, hw, hq, he, hon, ht, legal, transfers, transfer_start, transfer_send,
    transfer_restart, State.pass, BitVec.add_assoc]

theorem readManyTxn_succ (dev : BitVec 7) (reg : Byte) (n : Nat) :
    readManyTxn dev reg (n + 1) = readHead dev reg ++ (recvAcked n ++ ([.recv, .ack 1] ++ [.stop])) := by
  simp [readManyTxn]

/-- `I2C_RDMULT` of one byte is `I2C_RDREG` (R123). -/
theorem readManyTxn_one (dev : BitVec 7) (reg : Byte) : readManyTxn dev reg 1 = readTxn dev reg := rfl

/-- A burst read of `ds ++ [d]` from its accept to its retirement. -/
theorem runs_readManyTxn {s : State} {es : List EnvAct} (dev : BitVec 7) (reg d : Byte) (ds : List Byte) (h : s.Quiet)
    (hs : s.sched = []) (hon : s.on = true) (ht : s.ts = .idle)
    (he : s.envQ = readHeadAnswers ++ burstAnswers (ds ++ [d]) ++ [.stopDone] ++ es) :
    Runs (13 + 4 * (ds.length + 1)) (s.load (readManyTxn dev reg (ds.length + 1)))
      (({ s with
          sen := false, rsen := false, pen := false, rcen := false, acken := false, ackdt := 1, trstat := false
          ackstat := 0, rbf := false, trn := addrR dev, rcv := d, t0 := s.tick, rsp := s.rsp ++ ds ++ [d], envQ := es
          bus := s.bus ++ readHeadTrace dev reg ++ burstTrace (ds ++ [d]) ++ [.p] } : State).retired
        (6 + 2 * (ds.length + 1)) .ok) := by
  have hload := load_left h hs (readManyTxn dev reg (ds.length + 1))
  rw [readManyTxn_succ] at hload ⊢
  have henv : s.envQ = readHeadAnswers ++ (burstAnswers (ds ++ [d]) ++ (.stopDone :: es)) := by simpa using he
  obtain ⟨hhead, ⟨hr, hw, hq, hs⟩, he⟩ := runs_transfers ((readHead dev reg).zip readHeadAnswers) hload henv
    (transfers_readHead hload hon ht henv)
  have hburst := run_burst ds d _ [.stop] (.stopDone :: es) hr hw hs hq hon (.inl rfl) he
  obtain ⟨_, _, _, _, hready⟩ := quiet_iff.1 h
  have hcount : 13 + 4 * (ds.length + 1) = 2 * 5 + 4 * (ds.length + 1) + 3 := by omega
  have hupc : 6 + 2 * (ds.length + 1) = 5 + 2 * (ds.length + 1) + 1 := by omega
  rw [hcount, hupc]
  refine runs_add (runs_add hhead hburst) (runs_stop_retire ⟨hr, hw, rfl, hs⟩ hon rfl rfl ?_)
  simp [State.load, State.retired, ht, hready, BitVec.ofNat_add]

/-- Settles O27: the burst read, after the accept of a count that is not 0. -/
theorem readMultipleCompletes : Obligations.ReadMultipleCompletes := by
  intro s dev reg count d ds es h hs hon ht hlen he
  have hcount : count.toNat = ds.length + 1 := by simpa using hlen.symm
  have hpos : ∀ dev' reg', Instr.i2cRdmult dev reg count ≠ .i2cRdmult dev' reg' 0 := by
    rintro dev' reg' ⟨⟩
    cases hcount
  rw [hcount]
  exact ⟨(exec_quiet h hpos).trans (by rw [expand, hcount]), runs_readManyTxn dev reg d ds h hs hon ht he⟩

/-- Settles O26: a register read is the burst read of one byte. -/
theorem readRegisterCompletes : Obligations.ReadRegisterCompletes := by
  intro s dev reg d es h hs hon ht he
  have hrun := runs_readManyTxn dev reg d [] h hs hon ht (by simpa [burstAnswers] using he)
  refine ⟨addrR_eq_append dev, exec_quiet h (by simp), ?_⟩
  simpa [readManyTxn_one, readHeadTrace, burstTrace] using hrun

/-- Settles O12: a count of 0 is refused at accept; the two words run through the decoder. -/
theorem zeroCountIsRefused : Obligations.ZeroCountIsRefused := by
  refine ⟨fun s dev reg hr => ?_, by decide, by decide⟩
  obtain ⟨_, hf, _⟩ := idleReady_iff.1 hr
  rw [exec_zeroCount, refuseOperand_next, if_pos hr]
  simp [State.raiseFault, hf]

/-- Settles O28: both commands are accepted, with one expansion. -/
theorem readOneIsReadRegister : Obligations.ReadOneIsReadRegister := by
  intro s dev reg
  have hone : expand s.params (.i2cRdmult dev reg 1) = expand s.params (.i2cRdreg dev reg) :=
    readManyTxn_one dev reg
  rw [exec_eq_accept (by simp), hone, exec_eq_accept (by simp)]

/-! ### `I2C_WRREG` as its primitives (R125) -/

/-- The host presents a command of one word to a quiet block: it is taken in one step, and runs. -/
theorem runs_presented (i : Instr) {s t : State} {w : Word} {ws : List Word} {k : Nat} (h : s.Quiet) (hs : s.sched = [])
    (hwf : i.wf = true) (hi : ∀ dev reg, i ≠ .i2cRdmult dev reg 0) (hw : encode i = [w])
    (hq : s.hostQ = encode i ++ ws) (hrun : Runs k (({ s with hostQ := ws } : State).load (expand s.params i)) t) :
    Runs (k + 1) s t := by
  obtain ⟨hh, hf, hb, hl, hready⟩ := quiet_iff.1 h
  have hdec : decode (s.latched ++ [w]) = .instr i [] := by
    simpa [hl, hw] using decodeOfEncode i [] hwf
  have hword : s.hostQ = w :: ws := by rw [hq, hw]; rfl
  have hstep := step_exec (cmdReady_iff.2 ⟨hh, hf, .inl hb⟩) hs hword hdec
  have hquiet : State.Quiet { s with hostQ := ws, latched := [], busy := false } :=
    quiet_iff.2 ⟨hh, hf, rfl, rfl, hready⟩
  rw [exec_quiet hquiet hi, ← hl] at hstep
  exact (runs_succ hstep).2 hrun

section Presented
variable {s t : State} {ws : List Word} {es : List EnvAct} {k : Nat}
variable (h : s.Quiet) (hs : s.sched = []) (hon : s.on = true)
include h hs hon

/-! A primitive the host presents takes four steps, from its word to its retirement; `hrun` is what runs after it. -/

theorem runs_presented_start (ht : s.ts = .idle) (he : s.envQ = .startDone :: es)
    (hq : s.hostQ = encode .i2cStart ++ ws)
    (hrun : Runs k (({ s with
      hostQ := ws, envQ := es, sen := false, ts := .startSent, t0 := s.tick
      bus := s.bus ++ [.s] } : State).retired 1 .ok) t) :
    Runs (4 + k) s t := by
  obtain ⟨henc, hstart, _⟩ := startFollowsItsRule
  have hprim := (hstart { s with hostQ := ws } es h hs hon ht he).2
  exact runs_add (runs_presented .i2cStart h hs rfl (by simp) henc hq hprim) hrun

theorem runs_presented_send {b : Byte} (hl : legal (.send b) s.ts = true) (he : s.envQ = .txDone 0 :: es)
    (hq : s.hostQ = encode (.i2cSend b) ++ ws)
    (hrun : Runs k (({ s with
      hostQ := ws, envQ := es, trn := b, trstat := false, ackstat := 0, ts := tsAfterSend b s.ts, t0 := s.tick
      bus := s.bus ++ [.tx b 0] } : State).retired 1 .ok) t) :
    Runs (4 + k) s t := by
  obtain ⟨henc, hsend, _⟩ := sendFollowsItsRule
  have hrow : s.ts ∈ (MicroOp.send b).row := (legal_iff_mem_row rfl _).1 hl
  have hprim := (hsend { s with hostQ := ws } b es h hs hon hrow he).2
  rw [tsAfterSend_eq b hrow] at hrun
  exact runs_add (runs_presented (.i2cSend b) h hs rfl (by simp) (henc b) hq hprim) hrun

theorem runs_presented_stop (hl : legal .stop s.ts = true) (he : s.envQ = .stopDone :: es)
    (hq : s.hostQ = encode .i2cStop ++ ws)
    (hrun : Runs k (({ s with
      hostQ := ws, envQ := es, pen := false, ts := .idle, t0 := s.tick
      bus := s.bus ++ [.p] } : State).retired 1 .ok) t) :
    Runs (4 + k) s t := by
  obtain ⟨henc, hstop, _⟩ := stopFollowsItsRule
  have hprim := (hstop { s with hostQ := ws } es h hs hon ((legal_iff_mem_row rfl _).1 hl) he).2
  exact runs_add (runs_presented .i2cStop h hs rfl (by simp) henc hq hprim) hrun

end Presented

/-- Settles O30: the composite by O24; its primitives one after the other, each from the quiet state the one before it
retires in. -/
theorem writeRegisterIsItsPrimitives : Obligations.WriteRegisterIsItsPrimitives := by
  intro s dev reg v es h hs hon ht he
  obtain ⟨hh, hf, _, hl, _⟩ := quiet_iff.1 h
  obtain ⟨_, _, hwrite⟩ := writeRegisterCompletes { s with hostQ := [] } dev reg v es h hs hon ht he
  have hcomposite := runs_presented (.i2cWrreg dev reg v) (s := { s with hostQ := encode (.i2cWrreg dev reg v) }) h hs
    rfl (by simp) rfl (List.append_nil _).symm hwrite
  refine ⟨_, hcomposite, rfl, rfl, rfl, rfl, ?_⟩
  simp only [List.append_assoc]
  refine runs_presented_start h hs hon ht he rfl (k := 16) ?_
  refine runs_presented_send (quiet_iff.2 ⟨hh, hf, rfl, hl, rfl⟩) hs hon rfl rfl rfl (k := 12) ?_
  refine runs_presented_send (quiet_iff.2 ⟨hh, hf, rfl, hl, rfl⟩) hs hon ?_ rfl rfl (k := 8) ?_
  · simp [State.retired, legal]
  refine runs_presented_send (quiet_iff.2 ⟨hh, hf, rfl, hl, rfl⟩) hs hon ?_ rfl rfl (k := 4) ?_
  · simp [State.retired, legal]
  refine runs_presented_stop (quiet_iff.2 ⟨hh, hf, rfl, hl, rfl⟩) hs hon ?_ rfl (List.append_nil _).symm (k := 0) ?_
  · simp [State.retired, legal]
  · simp [runs_zero, State.retired, ht]

end Sys2Proof.Machine
end

section
/-! PROOFS. The framebuffer (spec/42_oled_framebuffer.md): what `setpix`, a letter and a message do to a byte and to a
pixel, and the drawing commands from their accept to their retirement. -/

namespace Sys2Proof.Machine

/-! ### `setpix` (R130) -/

theorem pixelMask_eq (y : Nat) : pixelMask y = 1#8 <<< (y % 8) := by
  apply BitVec.eq_of_toNat_eq
  simp [pixelMask, pageH]

theorem setpix_outside (e : Nat) (fb : Mem) {x y : Nat} (c : Bool) (h : 128 ≤ x ∨ 32 ≤ y) : setpix e fb x y c = fb :=
  if_pos h

theorem setpix_inside (e : Nat) (fb : Mem) {x y : Nat} (c : Bool) (h : ¬ (128 ≤ x ∨ 32 ≤ y)) :
    setpix e fb x y c = memPut (pixelIdx x y) (putBit (fbGet e fb (pixelIdx x y)) (pixelMask y) c) fb :=
  if_neg h

/-- One cell of the framebuffer after `setpix`. -/
theorem memFind_setpix (e : Nat) {fb : Mem} (w : memWf fb = true) (x y : Nat) (c : Bool) (i : Nat) :
    memFind i (setpix e fb x y c) =
      if x < 128 ∧ y < 32 ∧ i = pixelIdx x y then some (putBit (fbGet e fb i) (pixelMask y) c) else memFind i fb := by
  by_cases hout : 128 ≤ x ∨ 32 ≤ y
  · rw [setpix_outside e fb c hout, if_neg (by omega)]
  · rw [setpix_inside e fb c hout, memFind_memPut _ _ _ _ _ _ w]
    by_cases hi : i = pixelIdx x y
    · rw [if_pos hi, if_pos ⟨by omega, by omega, hi⟩, hi]
    · rw [if_neg hi, if_neg fun h => hi h.2.2]

theorem putBit_putBit (v mask : Byte) (c : Bool) : putBit (putBit v mask c) mask c = putBit v mask c := by
  cases c
  · simp [putBit, BitVec.and_assoc]
  · simp [putBit, BitVec.or_assoc]

/-- Two different bits of one byte. -/
theorem putBit_comm (v : Byte) {y y' : Nat} (h : y % 8 ≠ y' % 8) (c c' : Bool) :
    putBit (putBit v (pixelMask y) c) (pixelMask y') c' = putBit (putBit v (pixelMask y') c') (pixelMask y) c := by
  refine BitVec.eq_of_getLsbD_eq fun j hj => ?_
  simp only [putBit_getLsbD _ _ _ _ hj]
  by_cases hy : j = y % 8
  · have hy' : j ≠ y' % 8 := by omega
    simp only [if_pos hy, if_neg hy']
  · simp only [if_neg hy]

theorem setpix_setpix (e : Nat) {fb : Mem} (w : memWf fb = true) (x y : Nat) (c : Bool) :
    setpix e (setpix e fb x y c) x y c = setpix e fb x y c := by
  have w' := setpix_wf e x y c w
  refine mem_ext (setpix_wf e x y c w') w' fun i => ?_
  rw [memFind_setpix e w', memFind_setpix e w, fbGet_setpix e w]
  split
  · rw [putBit_putBit]
  · rfl

theorem setpix_comm (e : Nat) {fb : Mem} (w : memWf fb = true) {x y x' y' : Nat} (h : x' ≠ x ∨ y' ≠ y) (c c' : Bool) :
    setpix e (setpix e fb x y c) x' y' c' = setpix e (setpix e fb x' y' c') x y c := by
  have w₁ := setpix_wf e x y c w
  have w₂ := setpix_wf e x' y' c' w
  refine mem_ext (setpix_wf e x' y' c' w₁) (setpix_wf e x y c w₂) fun i => ?_
  rw [memFind_setpix e w₁, memFind_setpix e w₂, memFind_setpix e w, memFind_setpix e w, fbGet_setpix e w,
    fbGet_setpix e w]
  by_cases hi : x < 128 ∧ y < 32 ∧ i = pixelIdx x y
  · by_cases hi' : x' < 128 ∧ y' < 32 ∧ i = pixelIdx x' y'
    · have ⟨hx, _, hidx⟩ := hi
      have ⟨hx', _, hidx'⟩ := hi'
      have hbit : y % 8 ≠ y' % 8 := fun hb => by
        obtain ⟨_, _⟩ := pixelIdx_inj hx hx' (hidx.symm.trans hidx') hb
        omega
      simp only [if_pos hi, if_pos hi', putBit_comm _ hbit]
    · simp only [if_pos hi, if_neg hi']
  · simp only [if_neg hi]

/-! ### The local micro-operations on the framebuffer (R130, R132) -/

/-- A local micro-operation that writes `FB` is done at its issue. -/
theorem step_writesFb {s : State} {m : MicroOp} {rest : List MicroOp} {fb' : Mem} (h : s.AtHead m rest)
    (hl : m.isLocal = true) (hp : pre m s = .noFault) (hw : performLocal m s = { s with fb := fb' }) :
    step s = .next { s with fb := fb', uq := rest, upc := s.upc + 1 } := by
  have ⟨_, hready, hq, _⟩ := h
  rw [step_issue h, issueOp_eq, if_pos hp, if_pos hl, hw]
  simp [State.finish, hready, hq]

theorem step_fbDraw {s : State} {d : Draw} {rest : List MicroOp} (h : s.AtHead (.fbDraw d) rest) :
    step s = .next { s with fb := drawOn s.fbEpoch s.params s.fb d, uq := rest, upc := s.upc + 1 } :=
  step_writesFb h rfl rfl rfl

theorem step_fbClear {s : State} {rest : List MicroOp} (h : s.AtHead .fbClear rest) :
    step s = .next { s with fb := fbZero, uq := rest, upc := s.upc + 1 } :=
  step_writesFb h rfl rfl rfl

/-- A command of one micro-operation that writes `FB` takes two steps: its issue and its retirement (R101). -/
theorem runs_writesFb {s : State} {m : MicroOp} {fb' : Mem} (h : s.Quiet) (hs : s.sched = [])
    (hstep : step (s.load [m]) = .next { s.load [m] with fb := fb', uq := [], upc := 0 + 1 }) :
    Runs 2 (s.load [m]) (({ s with fb := fb' } : State).retired 1 .ok) := by
  have ⟨hr, hw, _, _⟩ := load_left h hs [m]
  refine (runs_succ hstep).2 (runs_retire ⟨hr, hw, rfl, hs⟩ ?_)
  obtain ⟨_, _, _, _, hready⟩ := quiet_iff.1 h
  simp [retire, State.pushCpl, State.load, State.retired, hready]

theorem runs_fbDraw {s : State} (h : s.Quiet) (hs : s.sched = []) (d : Draw) :
    Runs 2 (s.load [.fbDraw d]) (({ s with fb := drawOn s.fbEpoch s.params s.fb d } : State).retired 1 .ok) :=
  runs_writesFb h hs (step_fbDraw (load_atHead h hs _ []))

/-- Settles O32: `memFind_setpix` gives every cell, and canonical contents with equal cells are equal. -/
theorem setpixFollowsItsRule : Obligations.SetpixFollowsItsRule := by
  refine ⟨fun e fb x y c w => ⟨setpix_outside e fb c, fun hx hy => ?_⟩, fun s d rest h => step_fbDraw h⟩
  refine ⟨?_, fun i hi => ?_, ?_, fun x' y' hx' hy' hne => ⟨?_, setpix_comm e w hne c⟩, setpix_setpix e w x y c⟩
  · rw [fbGet_setpix e w, if_pos ⟨hx, hy, rfl⟩, putBit, pixelMask_eq]
  · rw [fbGet_setpix e w, if_neg fun h => hi h.2.2]
  · rw [pixel_setpix e w x y c x y hx hy, if_pos ⟨rfl, rfl⟩]
  · rw [pixel_setpix e w x y c x' y' hx' hy', if_neg (by omega)]

/-! ### `OLED_PIXEL` and `OLED_CLEAR` (R131, R132) -/

/-- Format `XYV` as its four bytes, most significant first (R81). -/
theorem fmtXYV_eq_append (op x y v : Byte) : fmtXYV op x y v = op ++ x ++ y ++ v := by
  refine BitVec.eq_of_getLsbD_eq fun i hi => Eq.trans ?_ (BitVec.getLsbD_append (x := op ++ x ++ y) (y := v)).symm
  simp only [BitVec.getLsbD_append, fmtXYV, place]; interval_cases i <;> simp

/-- Settles O33: the framebuffer after the run is `setpix` of the one before. -/
theorem pixelFollowsItsRule : Obligations.PixelFollowsItsRule := by
  refine ⟨fun x y color => congrArg (fun w => [w]) (fmtXYV_eq_append 0x22 x y color), fun s x y color h hs w => ?_⟩
  refine ⟨exec_quiet h (by simp), _, runs_fbDraw h hs _, setpix_outside _ _ _, fun hx hy => ⟨?_, ?_⟩⟩
  · rw [drawOn, pixel_setpix _ w _ _ _ _ _ hx hy, if_pos ⟨rfl, rfl⟩]
  · intro px py hpx hpy hne
    rw [drawOn, pixel_setpix _ w _ _ _ _ _ hpx hpy, if_neg (by omega)]

theorem fbClear_notMem_recvAcked (n : Nat) : MicroOp.fbClear ∉ recvAcked n := by
  induction n with
  | zero => simp [recvAcked]
  | succ n ih => simp [recvAcked, ih]

theorem fbClear_notMem_cmdSeq (addr : BitVec 7) (l : List Byte) : MicroOp.fbClear ∉ cmdSeq addr l := by
  simp [cmdSeq, cmdTxn, writeTxn]

theorem fbClear_notMem_updateOps (p : Params) : MicroOp.fbClear ∉ updateOps p := by
  simp [updateOps, fbClear_notMem_cmdSeq, dataTxn, sendFbAll]

/-- `FBCLEAR` is part of `OLED_CLEAR` and of `OLED_SETUP`, and of no other command. -/
theorem fbClear_mem_expand (p : Params) (i : Instr) :
    MicroOp.fbClear ∈ expand p i ↔ i = .oledClear ∨ i = .oledSetup := by
  cases i with
  | oledUpdate => simpa [expand] using fbClear_notMem_updateOps p
  | _ => simp [expand, writeTxn, cmdTxn, readTxn, readManyTxn, readHead, fbClear_notMem_recvAcked, setupOps]

/-- Settles O34: `FBCLEAR` writes `fbZero`. -/
theorem clearFollowsItsRule : Obligations.ClearFollowsItsRule := by
  refine ⟨by decide, fbClear_mem_expand, fun s h hs => ⟨exec_quiet h (by simp), fbZero, ?_, fbGet_fbZero _⟩⟩
  exact runs_writesFb h hs (step_fbClear (load_atHead h hs _ []))

/-! ### `OLED_LETTER` (R133) -/

/-- One pixel after the columns `i .. i+n-1` of a glyph. -/
theorem pixel_drawColumns (e : Nat) (p : Params) (ch : Byte) (x y n i : Nat) {fb : Mem} (w : memWf fb = true)
    (px py : Nat) (hx : px < 128) (hy : py < 32) :
    pixel e (drawColumns e p ch x y n i fb) px py =
      if x + i ≤ px ∧ px < x + i + n ∧ y ≤ py ∧ py < y + 8 then (glyph p ch (px - x)).getLsbD (py - y)
      else pixel e fb px py := by
  induction n generalizing i fb with
  | zero => rw [if_neg (by omega)]; rfl
  | succ n ih =>
    rw [drawColumns, ih _ (drawColumn_wf e _ _ _ _ _ w), pixel_drawColumn e _ _ _ _ _ w _ _ hx hy, glyphH]
    by_cases hcol : px = x + i ∧ y ≤ py ∧ py < y + 8
    · rw [if_neg (by omega), if_pos (by omega), if_pos (by omega), show px - x = i by omega]
    · by_cases hlater : x + (i + 1) ≤ px ∧ px < x + (i + 1) + n ∧ y ≤ py ∧ py < y + 8
      · rw [if_pos hlater, if_pos (by omega)]
      · rw [if_neg hlater, if_neg (by omega), if_neg (by omega)]

/-- One pixel after a letter. -/
theorem pixel_letter (e : Nat) (p : Params) {fb : Mem} (w : memWf fb = true) (x y : Nat) (ch : Byte) (px py : Nat)
    (hx : px < 128) (hy : py < 32) :
    pixel e (letter e p fb x y ch) px py =
      if inCell x y px py then (glyph p ch (px - x)).getLsbD (py - y) else pixel e fb px py := by
  rw [letter, pixel_drawColumns e p ch x y _ _ w px py hx hy]
  exact if_congr inCell_iff.symm rfl rfl

/-- Settles O35: `pixel_letter` of the framebuffer after the run. -/
theorem letterFollowsItsRule : Obligations.LetterFollowsItsRule := by
  refine ⟨fun x y ch => congrArg (fun w => [w]) (fmtXYV_eq_append 0x25 x y ch), fun s x y ch h hs w => ?_⟩
  exact ⟨exec_quiet h (by simp), _, runs_fbDraw h hs _, pixel_letter _ _ w _ _ _⟩

/-- A bit of a byte of the framebuffer is a pixel (R33). -/
theorem fbGet_getLsbD (e : Nat) (fb : Mem) (i : Nat) {j : Nat} (hj : j < 8) :
    (fbGet e fb i).getLsbD j = pixel e fb (i % 128) (8 * (i / 128) + j) := by
  have hidx : pixelIdx (i % 128) (8 * (i / 128) + j) = i := by simp only [pixelIdx, pageH, fbW]; omega
  have hbit : (8 * (i / 128) + j) % pageH = j := by simp only [pageH]; omega
  rw [pixel, hidx, hbit]

theorem memFind_above {a lo hi : Nat} {m : Mem} (w : cellsWfFrom lo hi m = true) (h : hi ≤ a) : memFind a m = none := by
  induction m generalizing lo with
  | nil => rfl
  | cons c m ih =>
    obtain ⟨b, v⟩ := c
    simp only [cellsWfFrom, Bool.and_eq_true, decide_eq_true_eq] at w
    obtain ⟨⟨_, hb⟩, w⟩ := w
    rw [memFind, if_neg (by omega), ih w]

/-- Canonical contents list nothing beyond byte 511. -/
theorem fbGet_above (e : Nat) {m : Mem} (w : memWf m = true) {i : Nat} (h : 512 ≤ i) :
    fbGet e m i = Config.fbAtReset e i := by
  rw [fbGet, memFind_above w h]; rfl

/-- A letter at (0, 0) fills the bytes 0 to 4, bit by bit. -/
theorem fbGet_letter_origin_getLsbD (e : Nat) (p : Params) {fb : Mem} (w : memWf fb = true) (ch : Byte) {i j : Nat}
    (hi : i < 512) (hj : j < 8) :
    (fbGet e (letter e p fb 0 0 ch) i).getLsbD j =
      if i < 5 then (glyph p ch i).getLsbD j else (fbGet e fb i).getLsbD j := by
  rw [fbGet_getLsbD e _ i hj, pixel_letter e p w _ _ _ _ _ (by omega) (by omega), ← fbGet_getLsbD e fb i hj]
  simp only [inCell_iff]
  by_cases hcol : i < 5
  · rw [if_pos hcol, if_pos (by omega), show i % 128 - 0 = i by omega, show 8 * (i / 128) + j - 0 = j by omega]
  · rw [if_neg hcol, if_neg (by omega)]

/-- Settles O36: bit by bit within the framebuffer; beyond it no cell is listed. -/
theorem letterAtOriginRoundTrips : Obligations.LetterAtOriginRoundTrips := by
  refine fun e p fb ch w => ⟨fun i hi => BitVec.eq_of_getLsbD_eq fun j hj => ?_, fun i hi => ?_⟩
  · rw [fbGet_letter_origin_getLsbD e p w ch (by omega) hj, if_pos hi]
  · rcases Nat.lt_or_ge i 512 with hin | hout
    · exact BitVec.eq_of_getLsbD_eq fun j hj => by
        rw [fbGet_letter_origin_getLsbD e p w ch hin hj, if_neg (by omega)]
    · rw [fbGet_above e (letter_wf e p _ _ _ w) hout, fbGet_above e w hout]

/-! ### The cells of a message (R134) -/

/-- From 123 on the next character stands at 0, one line further down. -/
theorem message_wraps (e : Nat) (p : Params) (fb : Mem) {x : Nat} (y : Nat) (ch : Byte) (t : List Byte) (h : 123 ≤ x) :
    message e p fb x y (ch :: t) = message e p (letter e p fb 0 (y + 8) ch) 5 (y + 8) t := by
  have hw : wraps x = true := decide_eq_true (show 128 ≤ x + 5 by omega)
  simp only [message, hw, if_true, lineH, pitch]

/-- Up to 122 the next character is drawn where it stands. -/
theorem message_fits (e : Nat) (p : Params) (fb : Mem) {x : Nat} (y : Nat) (ch : Byte) (t : List Byte) (h : x ≤ 122) :
    message e p fb x y (ch :: t) = message e p (letter e p fb x y ch) (x + 5) y t := by
  have hw : wraps x = false := decide_eq_false (show ¬ 128 ≤ x + 5 by omega)
  simp only [message, hw, Bool.false_eq_true, if_false, pitch]

theorem msgCells_wraps {x : Nat} (y : Nat) (ch : Byte) (t : List Byte) (h : 123 ≤ x) :
    msgCells x y (ch :: t) = (0, y + 8, ch) :: msgCells 5 (y + 8) t := if_pos (by omega)

theorem msgCells_fits {x : Nat} (y : Nat) (ch : Byte) (t : List Byte) (h : x ≤ 122) :
    msgCells x y (ch :: t) = (x, y, ch) :: msgCells (x + 5) y t := if_neg (by omega)

/-- Letters drawn one after the other, each in its cell. -/
def drawCells (e : Nat) (p : Params) : Mem → List (Nat × Nat × Byte) → Mem :=
  List.foldl fun fb c => letter e p fb c.1 c.2.1 c.2.2

/-- A message draws its letters in its cells. -/
theorem message_eq_drawCells (e : Nat) (p : Params) (fb : Mem) (x y : Nat) (t : List Byte) :
    message e p fb x y t = drawCells e p fb (msgCells x y t) := by
  induction t generalizing fb x y with
  | nil => rfl
  | cons ch t ih =>
    rcases Nat.lt_or_ge x 123 with hx | hx
    · rw [message_fits e p fb y ch t (by omega), msgCells_fits y ch t (by omega), ih]; rfl
    · rw [message_wraps e p fb y ch t hx, msgCells_wraps y ch t hx, ih]; rfl

/-- The first cell of a message lies at its start or on the next line, never beyond 122; the others go on 5 further
right. -/
theorem msgCells_cons (x y : Nat) (ch : Byte) (t : List Byte) :
    ∃ x' y', x' ≤ 122 ∧ ((y' = y ∧ x' = x) ∨ y' = y + 8)
      ∧ msgCells x y (ch :: t) = (x', y', ch) :: msgCells (x' + 5) y' t := by
  rcases Nat.lt_or_ge x 123 with hx | hx
  · exact ⟨x, y, by omega, .inl ⟨rfl, rfl⟩, msgCells_fits y ch t (by omega)⟩
  · exact ⟨0, y + 8, by omega, .inr rfl, msgCells_wraps y ch t hx⟩

/-- Where the cells of a message can lie: on the line of its start and not left of it, or on a line further down; none
reaches column 127. -/
theorem cell_of_mem_msgCells {x y cx cy : Nat} {ch : Byte} {t : List Byte} (h : (cx, cy, ch) ∈ msgCells x y t) :
    cx ≤ 122 ∧ ((cy = y ∧ x ≤ cx) ∨ y + 8 ≤ cy) := by
  induction t generalizing x y with
  | nil => cases h
  | cons c t ih =>
    obtain ⟨x', y', hx', hy', hcells⟩ := msgCells_cons x y c t
    rw [hcells, List.mem_cons, Prod.mk.injEq, Prod.mk.injEq] at h
    rcases h with ⟨rfl, rfl, _⟩ | h
    · omega
    · have hlater := ih h
      omega

/-- No pixel lies in both cells. -/
def CellsApart (c d : Nat × Nat × Byte) : Prop :=
  ∀ px py, inCell c.1 c.2.1 px py = true → inCell d.1 d.2.1 px py = false

theorem cellsApart_of_mem_msgCells {x y : Nat} {ch : Byte} {t : List Byte} {d : Nat × Nat × Byte}
    (h : d ∈ msgCells (x + 5) y t) : CellsApart (x, y, ch) d := by
  intro px py hc
  obtain ⟨cx, cy, ch'⟩ := d
  obtain ⟨_, hd⟩ := cell_of_mem_msgCells h
  have hin : x ≤ px ∧ px < x + 5 ∧ y ≤ py ∧ py < y + 8 := inCell_iff.1 hc
  rw [← Bool.not_eq_true, inCell_iff]
  change ¬ (cx ≤ px ∧ px < cx + 5 ∧ cy ≤ py ∧ py < cy + 8)
  omega

/-- The cells of a message do not overlap. -/
theorem msgCells_pairwise (x y : Nat) (t : List Byte) : (msgCells x y t).Pairwise CellsApart := by
  induction t generalizing x y with
  | nil => exact .nil
  | cons ch t ih =>
    obtain ⟨_, _, _, _, hcells⟩ := msgCells_cons x y ch t
    rw [hcells]
    exact .cons (fun _ h => cellsApart_of_mem_msgCells h) (ih _ _)

section DrawCells
variable (e : Nat) (p : Params) {fb : Mem} {cells : List (Nat × Nat × Byte)} {px py : Nat}
variable (w : memWf fb = true) (hx : px < 128) (hy : py < 32)
include w hx hy

/-- A pixel in no cell stays. -/
theorem pixel_drawCells_outside (h : ∀ c ∈ cells, inCell c.1 c.2.1 px py = false) :
    pixel e (drawCells e p fb cells) px py = pixel e fb px py := by
  induction cells generalizing fb with
  | nil => rfl
  | cons c cells ih =>
    obtain ⟨hc, hcells⟩ := List.forall_mem_cons.1 h
    calc pixel e (drawCells e p fb (c :: cells)) px py
        = pixel e (letter e p fb c.1 c.2.1 c.2.2) px py := ih (letter_wf e p _ _ _ w) hcells
      _ = pixel e fb px py := by rw [pixel_letter e p w _ _ _ _ _ hx hy, hc]; rfl

/-- A pixel in a cell is the glyph bit of its letter, where the cells do not overlap. -/
theorem pixel_drawCells_inCell (hapart : cells.Pairwise CellsApart) {cx cy : Nat} {ch : Byte}
    (hc : (cx, cy, ch) ∈ cells) (h : inCell cx cy px py = true) :
    pixel e (drawCells e p fb cells) px py = (glyph p ch (px - cx)).getLsbD (py - cy) := by
  induction cells generalizing fb with
  | nil => cases hc
  | cons d cells ih =>
    obtain ⟨hd, hcells⟩ := List.pairwise_cons.1 hapart
    rcases List.mem_cons.1 hc with rfl | hc
    · calc pixel e (drawCells e p fb ((cx, cy, ch) :: cells)) px py
          = pixel e (letter e p fb cx cy ch) px py :=
            pixel_drawCells_outside e p (letter_wf e p _ _ _ w) hx hy fun c hc => hd c hc px py h
        _ = (glyph p ch (px - cx)).getLsbD (py - cy) := by rw [pixel_letter e p w _ _ _ _ _ hx hy, if_pos h]
    · exact ih (letter_wf e p _ _ _ w) hcells hc

end DrawCells

section Message
variable (e : Nat) (p : Params) {fb : Mem} {x y : Nat} {t : List Byte} {px py : Nat}
variable (w : memWf fb = true) (hx : px < 128) (hy : py < 32)
include w hx hy

/-- One pixel of a cell after a message. -/
theorem pixel_message_inCell {cx cy : Nat} {ch : Byte} (hc : (cx, cy, ch) ∈ msgCells x y t)
    (h : inCell cx cy px py = true) :
    pixel e (message e p fb x y t) px py = (glyph p ch (px - cx)).getLsbD (py - cy) := by
  rw [message_eq_drawCells]
  exact pixel_drawCells_inCell e p w hx hy (msgCells_pairwise x y t) hc h

/-- One pixel outside the cells after a message. -/
theorem pixel_message_outside
    (h : ∀ cx cy ch, (cx, cy, ch) ∈ msgCells x y t → inCell cx cy px py = false) :
    pixel e (message e p fb x y t) px py = pixel e fb px py := by
  rw [message_eq_drawCells]
  exact pixel_drawCells_outside e p w hx hy fun c hc => h _ _ _ hc

end Message

/-! ### `OLED_MSG` (R134) -/

/-- A payload word is its character behind 24 zero bits (R81). -/
theorem fmtB_zero_eq_append (b : Byte) : fmtB 0 b = 0#24 ++ b := by
  simp [fmtB, place, BitVec.setWidth_eq_append]

/-- Settles O37: a message draws its letters in its cells, which do not overlap. -/
theorem messageFollowsItsRule : Obligations.MessageFollowsItsRule := by
  refine ⟨fun x y text => ?_, fun s x y text h hs w => ⟨exec_quiet h (by simp), _, runs_fbDraw h hs _, ?_⟩⟩
  · rw [encode, fmtXYV_eq_append, funext fmtB_zero_eq_append]; rfl
  · exact fun px py hx hy => ⟨fun cx cy ch => pixel_message_inCell _ _ w hx hy, pixel_message_outside _ _ w hx hy⟩

/-- The cell of a message's character `k`, counted from column 0 of line `y`: 25 characters a line. -/
def cellAt (y k : Nat) (ch : Byte) : Nat × Nat × Byte := (5 * (k % 25), y + 8 * (k / 25), ch)

theorem cellAt_onLine (y : Nat) {k : Nat} (h : k < 25) : cellAt y k = fun ch => (5 * k, y, ch) := by
  funext ch
  rw [cellAt, Nat.mod_eq_of_lt h, Nat.div_eq_of_lt h, Nat.mul_zero, Nat.add_zero]

/-- After 25 characters the next line begins. -/
theorem cellAt_nextLine (y k : Nat) : cellAt y (25 + k) = cellAt (y + 8) k := by
  funext ch
  rw [cellAt, cellAt, Nat.add_mod_left, Nat.add_div_left k (by omega)]
  congr 2
  omega

/-- The cells of a message that starts at the column of a line's character `j`, or with `j = 25` at the line's end. -/
theorem msgCells_columns {j : Nat} (hj : j ≤ 25) (y : Nat) (t : List Byte) :
    msgCells (5 * j) y t = t.mapIdx fun k => cellAt y (j + k) := by
  induction t generalizing j y with
  | nil => rfl
  | cons ch t ih =>
    rcases Nat.lt_or_eq_of_le hj with hlt | rfl
    · have htail : msgCells (5 * j + 5) y t = t.mapIdx fun k => cellAt y (j + (k + 1)) := by
        simpa only [Nat.mul_add, Nat.mul_one, Nat.add_assoc, Nat.add_comm 1] using ih (j := j + 1) (by omega) y
      rw [msgCells_fits y ch t (by omega), List.mapIdx_cons, htail, Nat.add_zero, cellAt_onLine y hlt]
    · have htail : msgCells 5 (y + 8) t = t.mapIdx fun k => cellAt y (25 + (k + 1)) := by
        simpa only [cellAt_nextLine, Nat.mul_one, Nat.add_comm 1] using ih (j := 1) (by omega) (y + 8)
      rw [msgCells_wraps y ch t (by omega), List.mapIdx_cons, htail, cellAt_nextLine, cellAt_onLine _ (by omega)]

theorem mem_msgCells_zero {y cx cy : Nat} {ch : Byte} {t : List Byte} :
    (cx, cy, ch) ∈ msgCells 0 y t ↔ ∃ k, ∃ h : k < t.length, cellAt y k t[k] = (cx, cy, ch) := by
  rw [← Nat.mul_zero 5, msgCells_columns (by omega), List.mem_mapIdx]
  simp only [Nat.zero_add]

/-- Settles O38: the two cases of the wrap test; `mem_msgCells_zero` gives the lines of 25; no cell reaches column
127. -/
theorem messageWrapPoint : Obligations.MessageWrapPoint := by
  refine fun e p fb => ⟨fun x y text hx => ?_, fun x y ch text hx => message_fits e p fb _ ch text hx,
    fun w y text px py hpx hpy => ⟨fun k hk hcell => ?_, fun hout => ?_⟩, fun w x y text py hpy => ?_⟩
  · cases text with
    | nil => rfl
    | cons ch t => rw [drawOn, message_wraps e p fb _ ch t hx, message_fits e p fb _ ch t (by omega)]
  · exact pixel_message_inCell e p w hpx hpy (mem_msgCells_zero.2 ⟨k, hk, rfl⟩) hcell
  · refine pixel_message_outside e p w hpx hpy fun cx cy ch hc => ?_
    obtain ⟨k, hk, heq⟩ := mem_msgCells_zero.1 hc
    cases heq
    exact hout k hk
  · refine pixel_message_outside e p w (by omega) hpy fun cx cy ch hc => ?_
    obtain ⟨hcx, _⟩ := cell_of_mem_msgCells hc
    rw [← Bool.not_eq_true, inCell_iff]
    omega

end Sys2Proof.Machine
end
section
/-! PROOFS. The display pipeline (spec/43_oled_pipeline.md): `SENDFB` at its issue, the settle delay, and the three
display commands that use the bus. -/

namespace Sys2Proof.Machine

/-! ### `SENDFB` (R144) -/

/-- Settles O41: `SENDFB` has the legal row of `SEND`, and waits as the `SEND` it has become. -/
theorem sendFbReadsAtItsIssue : Obligations.SendFbReadsAtItsIssue := by
  intro s i rest h hon ht
  have hp : pre (.sendFb i) s = .noFault := pre_noFault.2 ⟨fun _ => hon, (legal_iff_mem_row rfl _).2 ht⟩
  rw [step_issue h, issueOp_eq, if_pos hp]
  rfl

/-! ### `DELAY` (R145, R172) -/

/-- The issue of a `DELAY` cannot be refused, and is nothing but its wait. -/
theorem issueOp_delay (n : Word) (s : State) : issueOp (.delay n) s = s.arm (.delay n) := rfl

theorem completeStep_delay {s : State} {n : Word} (hr : s.running = true) (hw : s.wst = .waiting (.delay n)) :
    completeStep s = if n ≤ s.elapsed then some s.finish else none := by
  simp only [completeStep, hr, hw, if_true]

/-- A `DELAY` does not time out (R168). -/
theorem timeoutStep_delay {s : State} {n : Word} (hw : s.wst = .waiting (.delay n)) : timeoutStep s = none := by
  simp [timeoutStep, State.busWaiting, hw]

theorem step_delay_done {s : State} {n : Word} (h : s.Waits (.delay n)) (he : n ≤ s.elapsed) :
    step s = .next s.finish := by
  have ⟨hr, hw, hs⟩ := h
  have hc : completeStep s = some s.finish := by rw [completeStep_delay hr hw, if_pos he]
  simp [step, advance, hs, defaultStep, blockStep_waiting hw, hc]

/-- Settles O47: the issue, the end of the wait, and the wait in which neither the end nor a timeout is enabled. -/
theorem delayFollowsItsRule : Obligations.DelayFollowsItsRule := by
  refine ⟨fun s n rest h => step_issue h, fun s n h he => step_delay_done h he, fun s n h he => ?_⟩
  have ⟨hr, hw, _⟩ := h
  exact step_stuck h (by rw [completeStep_delay hr hw]; exact if_neg he) (timeoutStep_delay hw)

theorem blockStep_issue {s : State} {m : MicroOp} {rest : List MicroOp} (hr : s.running = true) (hw : s.wst = .ready)
    (hq : s.uq = m :: rest) : blockStep s = some (issueOp m s) := by
  simp only [blockStep, hr, hw, hq, if_true]

/-- A scheduled turn of the block that issues. -/
theorem step_block_issue {s : State} {m : MicroOp} {rest : List MicroOp} {ts : List Turn} (hr : s.running = true)
    (hw : s.wst = .ready) (hq : s.uq = m :: rest) (hs : s.sched = .block :: ts) :
    step s = .next (issueOp m { s with sched := ts }) := by
  rw [step_turn hs, turnStep, blockStep_issue (s := { s with sched := ts }) hr hw hq]
  rfl

/-- A scheduled turn of the tick source (R172). -/
theorem step_tick {s : State} {d : Word} {ts : List Turn} (hs : s.sched = .tick d :: ts) :
    step s = .next { s with tick := s.tick + d, sched := ts } := step_turn hs

/-- A command accepted in `s` whose first micro-operation, a `DELAY`, has ended after `d` ticks, with `q` left. -/
def State.delayed (s : State) (d : Word) (q : List MicroOp) : State :=
  { s.load q with t0 := s.tick, tick := s.tick + d, wst := .ready, upc := 1, sched := [] }

/-- Under a schedule in which the `DELAY` is issued and then `d` ticks pass, `n` at least, it ends in three steps. -/
theorem runs_delayed {s : State} {n d : Word} (q : List MicroOp) (h : s.Quiet) (hs : s.sched = [.block, .tick d])
    (hd : n ≤ d) : Runs 3 (s.load (.delay n :: q)) (s.delayed d q) ∧ (s.delayed d q).Left q := by
  obtain ⟨hh, hf, _, hl, hw⟩ := quiet_iff.1 h
  have hr : (s.load (.delay n :: q)).running = true := running_iff.2 ⟨hh, hf, rfl, hl⟩
  have hissue : step (s.load (.delay n :: q)) =
      .next { s.load (.delay n :: q) with t0 := s.tick, wst := .waiting (.delay n), sched := [.tick d] } :=
    step_block_issue hr hw rfl hs
  have hwait : State.Waits { s.load (.delay n :: q) with
      t0 := s.tick, tick := s.tick + d, wst := .waiting (.delay n), sched := [] } (.delay n) := ⟨hr, rfl, rfl⟩
  have hpassed : n ≤ s.tick + d - s.tick := by simpa using hd
  have hend : Runs 1 _ (s.delayed d q) := (runs_succ (step_delay_done hwait hpassed)).2 (runs_zero.2 rfl)
  exact ⟨(runs_succ hissue).2 ((runs_succ (step_tick rfl)).2 hend), hr, rfl, rfl, rfl⟩

/-! ### `OLED_CMD` (R141) -/

/-- Settles O40: `cmdTxn` is the transaction of `I2C_WRREG`. -/
theorem displayCommandCompletes : Obligations.DisplayCommandCompletes := by
  refine fun s c => ⟨rfl, fun es h hs hon ht he => ?_⟩
  obtain ⟨_, hexec, hrun⟩ := writeRegisterCompletes s s.params.oledAddr7 ctrlCmd c es h hs hon ht he
  exact ⟨hexec, hrun⟩

/-! ### The command bytes and the data transaction (R140, R144) -/

/-- `cmdSeq` of any list. What it leaves in six registers depends on whether the list is empty; they stay unnamed, since
the transaction that follows overwrites them all. -/
theorem runs_cmdSeq {s : State} {a : BitVec 7} {q : List MicroOp} {es : List EnvAct} (l : List Byte)
    (h : s.Left (cmdSeq a l ++ q)) (hon : s.on = true) (ht : s.ts = .idle)
    (he : s.envQ = cmdSeqAnswers l.length ++ es) :
    ∃ (sen pen trstat : Bool) (ackstat : BitVec 1) (trn : Byte) (t0 : Word), Runs (10 * l.length) s { s with
      sen := sen, pen := pen, trstat := trstat, ackstat := ackstat, trn := trn, t0 := t0, envQ := es, uq := q
      bus := s.bus ++ cmdSeqTrace a l, upc := s.upc + BitVec.ofNat 16 (5 * l.length) } := by
  obtain ⟨hr, hw, hq, hs⟩ := h
  by_cases hl : l = []
  · subst hl
    refine ⟨s.sen, s.pen, s.trstat, s.ackstat, s.trn, s.t0, runs_zero.2 ?_⟩
    have hq' : s.uq = q := hq
    have he' : s.envQ = es := he
    simp [cmdSeqTrace, ← hq', ← he']
  · exact ⟨_, _, _, _, _, _, run_cmdSeq l a s q es hr hw hs hq hon ht he hl⟩

/-- `sendFbAll` as the `SENDFB`s of a list of indices. -/
theorem sendFbAll_eq_map : sendFbAll = ((List.range 512).map (BitVec.ofNat 9)).map .sendFb := by
  rw [List.map_map]; rfl

/-- The events of the data bytes, by the indices of their `SENDFB`s. -/
theorem map_tx_ofNat (f : Nat → Byte) :
    ((List.range 512).map (BitVec.ofNat 9)).map (fun i => BusEvent.tx (f i.toNat) 0)
      = (List.range 512).map fun i => .tx (f i) 0 := by
  rw [List.map_map]
  refine List.map_congr_left fun i hi => ?_
  have hlt : i < 2 ^ 9 := List.mem_range.1 hi
  rw [Function.comp_apply, BitVec.toNat_ofNat, Nat.mod_eq_of_lt hlt]

/-- The whole framebuffer, in ascending order. -/
theorem runs_sendFbAll {s : State} {q : List MicroOp} {es : List EnvAct} (h : s.Left (sendFbAll ++ q))
    (hon : s.on = true) (ht : s.ts = .dataSent) (he : s.envQ = List.replicate 512 (.txDone 0) ++ es) :
    Runs (2 * 512) s { s with
      trstat := false, ackstat := 0, trn := s.fbByte 511, t0 := s.tick, envQ := es, uq := q
      bus := s.bus ++ (List.range 512).map (fun i => .tx (s.fbByte i) 0), upc := s.upc + 512 } := by
  obtain ⟨hr, hw, hq, hs⟩ := h
  rw [sendFbAll_eq_map] at hq
  have hlen : ((List.range 512).map (BitVec.ofNat 9)).length = 512 := by rw [List.length_map, List.length_range]
  have hne : (List.range 512).map (BitVec.ofNat 9) ≠ [] := by rw [← List.length_pos_iff, hlen]; decide
  have hlast : ((List.range 512).map (BitVec.ofNat 9)).getLast hne = 511 := by
    rw [List.getLast_map, List.getLast_range]; rfl
  have hrun := run_sendFbs _ s q es hr hw hs hq hon (.inr ht) (by rw [hlen, he]) hne
  rw [hlen, hlast, map_tx_ofNat, ← ht] at hrun
  exact hrun

/-- The data transaction up to its first data byte. -/
def dataHead (a : BitVec 7) : List (MicroOp × EnvAct) :=
  [(.start, .startDone), (.send (addrW a), .txDone 0), (.send ctrlData, .txDone 0)]

theorem transfers_dataHead {s : State} {a : BitVec 7} {q : List MicroOp} {es : List EnvAct}
    (h : s.Left ((dataHead a).map Prod.fst ++ q)) (hon : s.on = true) (ht : s.ts = .idle)
    (he : s.envQ = (dataHead a).map Prod.snd ++ es) :
    transfers (dataHead a) s = some { s with
      sen := false, trstat := false, ackstat := 0, trn := ctrlData, t0 := s.tick, ts := .dataSent, envQ := es, uq := q
      upc := s.upc + 3, bus := s.bus ++ [.s, .tx (addrW a) 0, .tx ctrlData 0] } := by
  obtain ⟨_, hw, hq, _⟩ := h
  simp [dataHead] at hq he
  simp [dataHead, hw, hq, he, hon, ht, legal, transfers, transfer_start, transfer_send, State.pass, BitVec.add_assoc]

theorem dataTxn_eq (a : BitVec 7) : dataTxn a = (dataHead a).map Prod.fst ++ (sendFbAll ++ [.stop]) := by
  simp only [dataTxn, dataHead, List.map_cons, List.map_nil, List.append_assoc]

theorem dataAnswers_eq (a : BitVec 7) :
    dataAnswers = (dataHead a).map Prod.snd ++ (List.replicate 512 (.txDone 0) ++ [.stopDone]) := rfl

theorem dataTrace_congr (a : BitVec 7) {f g : Nat → Byte} (h : ∀ i < 512, f i = g i) :
    dataTrace a f = dataTrace a g := by
  have hbytes : (List.range fbBytes).map (fun i => BusEvent.tx (f i) 0) =
      (List.range fbBytes).map fun i => BusEvent.tx (g i) 0 :=
    List.map_congr_left fun i hi => by rw [h i (List.mem_range.1 hi)]
  rw [dataTrace, hbytes, dataTrace]

/-- The data transaction of a framebuffer that holds the bytes `f`, as the end of a command with `n` micro-operations
done before: `START`, the address, the control byte, 512 bytes, `STOP`, and the retirement (R144). -/
theorem runs_dataTxn_retire {s : State} {a : BitVec 7} {f : Nat → Byte} {n : Nat} {es : List EnvAct}
    (h : s.Left (dataTxn a)) (hf : ∀ i < 512, s.fbByte i = f i) (hon : s.on = true) (ht : s.ts = .idle)
    (hst : s.st = .ok) (hupc : s.upc = BitVec.ofNat 16 n) (he : s.envQ = dataAnswers ++ es) :
    Runs 1033 s (({ s with
      sen := false, pen := false, trstat := false, ackstat := 0, trn := f 511, t0 := s.tick, envQ := es
      bus := s.bus ++ dataTrace a f } : State).retired (n + 516) .ok) := by
  rw [← hf 511 (by decide), ← dataTrace_congr a hf]
  rw [dataTxn_eq] at h
  rw [dataAnswers_eq a, List.append_assoc, List.append_assoc] at he
  obtain ⟨hhead, ⟨hr, hw, hq, hs⟩, he⟩ := runs_transfers (dataHead a) h he (transfers_dataHead h hon ht he)
  have hbytes := runs_sendFbAll ⟨hr, hw, hq, hs⟩ hon rfl he
  refine runs_add (runs_add hhead hbytes) (runs_stop_retire ⟨hr, hw, rfl, hs⟩ hon rfl rfl ?_)
  obtain ⟨_, hready, _⟩ := h
  simp [State.retired, dataTrace, fbBytes, State.fbByte, hst, hupc, hready, ht, BitVec.ofNat_add, BitVec.add_assoc]

/-! ### `OLED_UPDATE` (R143) -/

/-- The update from a framebuffer that holds the bytes `f`, as the end of a command with `n` micro-operations done
before. -/
theorem runs_updateOps_retire {s : State} {f : Nat → Byte} {n : Nat} {es : List EnvAct}
    (h : s.Left (updateOps s.params)) (hf : ∀ i < 512, s.fbByte i = f i) (hon : s.on = true) (ht : s.ts = .idle)
    (hst : s.st = .ok) (hupc : s.upc = BitVec.ofNat 16 n)
    (he : s.envQ = cmdSeqAnswers s.params.windowSeq.length ++ (dataAnswers ++ es)) :
    Runs (10 * s.params.windowSeq.length + 1033) s (({ s with
      sen := false, pen := false, trstat := false, ackstat := 0, trn := f 511, t0 := s.tick, envQ := es
      bus := s.bus ++ cmdSeqTrace s.params.oledAddr7 s.params.windowSeq ++ dataTrace s.params.oledAddr7 f
      } : State).retired (n + 5 * s.params.windowSeq.length + 516) .ok) := by
  have ⟨hr, hw, _, hs⟩ := h
  obtain ⟨sen, pen, trstat, ackstat, trn, t0, hwindow⟩ := runs_cmdSeq s.params.windowSeq h hon ht he
  refine runs_add hwindow (runs_dataTxn_retire ⟨hr, hw, rfl, hs⟩ hf hon ht hst ?_ rfl)
  rw [hupc, BitVec.ofNat_add]

/-- Settles O42: the window bytes, the data transaction, and the retirement. -/
theorem updateCompletes : Obligations.UpdateCompletes := by
  intro s es h hs hon ht he
  refine ⟨exec_quiet h (by simp), ?_⟩
  have hleft := load_left h hs (updateOps s.params)
  have hrun := runs_updateOps_retire (n := 0) hleft (fun _ _ => rfl) hon ht rfl rfl (he.trans (List.append_assoc ..))
  rw [Nat.zero_add] at hrun
  rw [show 2 * (5 * s.params.windowSeq.length + 516) + 1 = 10 * s.params.windowSeq.length + 1033 by omega]
  exact hrun

/-! ### `OLED_SETUP` (R145) -/

/-- What follows the settle delay of `OLED_SETUP`. -/
def setupRest (p : Params) : List MicroOp := cmdSeq p.oledAddr7 p.initSeq ++ .fbClear :: updateOps p

theorem setupOps_eq (p : Params) : setupOps p = .delay p.settleTicks :: setupRest p := by
  simp [setupOps, setupRest]

theorem setupRest_noInit {p : Params} (h : p.initSeq = []) : setupRest p = .fbClear :: updateOps p := by
  rw [setupRest, h]; rfl

/-! With the engine off: the first micro-operation of each list is a `START`. -/

theorem head?_cmdSeq (a : BitVec 7) {l : List Byte} (h : l ≠ []) : (cmdSeq a l).head? = some .start := by
  obtain ⟨c, l, rfl⟩ := List.exists_cons_of_ne_nil h
  rfl

theorem head?_setupRest {p : Params} (h : p.initSeq ≠ []) : (setupRest p).head? = some .start := by
  rw [setupRest, List.head?_append, head?_cmdSeq _ h]; rfl

theorem head?_updateOps (p : Params) : (updateOps p).head? = some .start := by
  by_cases hl : p.windowSeq = []
  · rw [updateOps, hl]; rfl
  · rw [updateOps, List.head?_append, head?_cmdSeq _ hl]; rfl

/-- `START` on a disabled engine (R102). -/
theorem runs_start_disabled {s : State} {q : List MicroOp} (h : s.Left q) (hq : q.head? = some .start)
    (hoff : s.on = false) : Runs 1 s { s with fault := .notEnabled } := by
  obtain ⟨rest, rfl⟩ := List.head?_eq_some_iff.1 hq
  exact (runs_succ ((faultsOutside_row rfl s rest h).1 hoff)).2 (runs_zero.2 rfl)

section Clear
/-! `fbZero` goes by the name `z` here: Lean would compare states by the 512 cells it computes to. -/
variable {z : Mem} (hz : z = fbZero)
include hz

/-- `FBCLEAR` with `q` behind it (R132). -/
theorem runs_fbClear {s : State} {q : List MicroOp} (h : s.Left (.fbClear :: q)) :
    Runs 1 s { s with fb := z, uq := q, upc := s.upc + 1 }
      ∧ ({ s with fb := z, uq := q, upc := s.upc + 1 } : State).Left q := by
  have ⟨hr, hw, _, hs⟩ := h
  rw [hz]
  exact ⟨(runs_succ (step_fbClear h)).2 (runs_zero.2 rfl), hr, hw, rfl, hs⟩

/-- The clear, then the update on a disabled engine. -/
theorem runs_clear_disabled {s : State} {p : Params} (h : s.Left (.fbClear :: updateOps p)) (hoff : s.on = false) :
    Runs 2 s { s with fb := z, uq := updateOps p, upc := s.upc + 1, fault := .notEnabled } := by
  obtain ⟨hclear, hleft⟩ := runs_fbClear hz h
  exact runs_add hclear (runs_start_disabled hleft (head?_updateOps p) hoff)

/-- The clear, then the update, as the end of a command with `n` micro-operations done before. -/
theorem runs_clear_update_retire {s : State} {n : Nat} {es : List EnvAct}
    (h : s.Left (.fbClear :: updateOps s.params)) (hon : s.on = true) (ht : s.ts = .idle) (hst : s.st = .ok)
    (hupc : s.upc = BitVec.ofNat 16 n)
    (he : s.envQ = cmdSeqAnswers s.params.windowSeq.length ++ (dataAnswers ++ es)) :
    Runs (1 + (10 * s.params.windowSeq.length + 1033)) s (({ s with
      sen := false, pen := false, trstat := false, ackstat := 0, trn := 0, t0 := s.tick, envQ := es, fb := z
      bus := s.bus ++ cmdSeqTrace s.params.oledAddr7 s.params.windowSeq
        ++ dataTrace s.params.oledAddr7 fun _ => 0 } : State).retired
        (n + 1 + 5 * s.params.windowSeq.length + 516) .ok) := by
  obtain ⟨hclear, hleft⟩ := runs_fbClear hz h
  have hzero : ∀ i < 512, fbGet s.fbEpoch z i = 0 := fun i hi => by rw [hz, fbGet_fbZero _ i hi]
  refine runs_add hclear (runs_updateOps_retire hleft hzero hon ht hst ?_ he)
  rw [BitVec.ofNat_add, ← hupc]
  rfl

/-- All of `OLED_SETUP` behind the settle delay, which is the one micro-operation done before. -/
theorem runs_setupRest_retire {s : State} {es : List EnvAct} (h : s.Left (setupRest s.params))
    (hon : s.on = true) (ht : s.ts = .idle) (hst : s.st = .ok) (hupc : s.upc = 1)
    (he : s.envQ =
      cmdSeqAnswers s.params.initSeq.length ++ (cmdSeqAnswers s.params.windowSeq.length ++ (dataAnswers ++ es))) :
    Runs (10 * s.params.initSeq.length + 10 * s.params.windowSeq.length + 1034) s (({ s with
      sen := false, pen := false, trstat := false, ackstat := 0, trn := 0, t0 := s.tick, envQ := es, fb := z
      bus := s.bus ++ cmdSeqTrace s.params.oledAddr7 s.params.initSeq
        ++ cmdSeqTrace s.params.oledAddr7 s.params.windowSeq ++ dataTrace s.params.oledAddr7 fun _ => 0
      } : State).retired (5 * s.params.initSeq.length + 5 * s.params.windowSeq.length + 518) .ok) := by
  have ⟨hr, hw, _, hs⟩ := h
  obtain ⟨sen, pen, trstat, ackstat, trn, t0, hinit⟩ := runs_cmdSeq s.params.initSeq h hon ht he
  rw [show 10 * s.params.initSeq.length + 10 * s.params.windowSeq.length + 1034
      = 10 * s.params.initSeq.length + (1 + (10 * s.params.windowSeq.length + 1033)) by omega,
    show 5 * s.params.initSeq.length + 5 * s.params.windowSeq.length + 518
      = 1 + 5 * s.params.initSeq.length + 1 + 5 * s.params.windowSeq.length + 516 by omega]
  refine runs_add hinit (runs_clear_update_retire hz ⟨hr, hw, rfl, hs⟩ hon ht hst ?_ rfl)
  rw [BitVec.ofNat_add, hupc]
  rfl

end Clear

/-- Settles O43: the delay; then with the engine off the first `START` is refused, and with it on the bytes of
`INIT_SEQ`, the clear and the update run. -/
theorem displaySetupCompletes : Obligations.DisplaySetupCompletes := by
  intro s d es h hs ht hd
  obtain ⟨_, _, _, _, hready⟩ := quiet_iff.1 h
  obtain ⟨hdelay, hleft⟩ := runs_delayed (setupRest s.params) h hs hd
  refine ⟨exec_quiet h (by simp), ?_⟩
  rw [setupOps_eq, List.tail_cons]
  refine ⟨fun hoff hinit => ?_, fun hoff hinit => ?_, fun hon he => ?_⟩
  · rw [hready]
    exact runs_add hdelay (runs_start_disabled hleft (head?_setupRest hinit) hoff)
  · rw [setupRest_noInit hinit] at hdelay hleft ⊢
    rw [hready]
    exact runs_add hdelay (runs_clear_disabled rfl hleft hoff)
  · rw [List.append_assoc, List.append_assoc] at he
    rw [show 2 * (5 * s.params.initSeq.length + 5 * s.params.windowSeq.length + 516) + 5
      = 3 + (10 * s.params.initSeq.length + 10 * s.params.windowSeq.length + 1034) by omega]
    exact runs_add hdelay (runs_setupRest_retire rfl hleft hon ht rfl rfl he)

end Sys2Proof.Machine
end

section
/-! PROOFS. Faults, the hang, the timeout and the tick source (spec/60_exceptions.md): what a halted block still does,
what sets `HUNG`, when a wait times out, what writes `tick`, and that every state has a next state. -/

namespace Sys2Proof.Machine

/-! ### A halted block (R162, R163, R165) -/

theorem not_running_of_not_alive {s : State} (h : s.alive = false) : s.running = false := by simp [State.running, h]

theorem not_cmdReady_of_not_alive {s : State} (h : s.alive = false) : s.cmdReady = false := by simp [State.cmdReady, h]

/-- Of the moves of a block that is hung or faulted, only a reset touches the block: the others ask for a running
block or a ready port, or are those of the tick source and of the read ports. -/
theorem Move.of_not_alive {a : Option Turn} {s t : State} (h : Move a s t) (hs : s.alive = false)
    (ha : a ≠ some .reset) : t = { s with sched := t.sched, tick := t.tick, reads := t.reads } := by
  have hr : s.running ≠ true := by simp [not_running_of_not_alive hs]
  have hc : s.cmdReady ≠ true := by simp [not_cmdReady_of_not_alive hs]
  cases h with
  | stay | tick | read => rfl
  | reset hreset => exact absurd hreset ha
  | word w ws t hready => exact absurd hready hc
  | _ => exact absurd ‹s.running = true› hr

/-- Settles O44: the move of a halted block after its turn is taken off the schedule. -/
theorem haltedUntilReset : Obligations.HaltedUntilReset := fun _ _ hs hstep ha =>
  ⟨(step_move hstep).of_not_alive hs ha, not_cmdReady_of_not_alive hs⟩

/-! ### What sets `HUNG` (R29, R107, R165) -/

/-- A completion that changes `HUNG` is that of a `SEND` answered with the acknowledge bit 1 in `LEGACY_HANG` mode. -/
theorem complete_hung {m : MicroOp} {e : EnvAct} {s t : State} (h : complete m e s = some t) :
    t.hung = s.hung ∨ s.params.errMode = .legacyHang ∧ e = .txDone 1 ∧ ∃ b, m = .send b := by
  by_cases he : e = .txDone 1
  · cases complete_completion h with
    | sendHung b hm => exact .inr ⟨hm, he, b, rfl⟩
    | _ => exact .inl rfl
  · obtain ⟨_, _, hh, _⟩ := complete_acked h he
    exact .inl hh

/-- A move that changes `HUNG` is such a completion, or clears it. -/
theorem Move.hung {a : Option Turn} {s t : State} (h : Move a s t) :
    t.hung = s.hung ∨ t.hung = false
      ∨ s.params.errMode = .legacyHang ∧ ∃ b es, s.wst = .waiting (.send b) ∧ s.envQ = .txDone 1 :: es := by
  cases h with
  | issue m rest hr hw hq => exact .inl (congrArg State.hung (issueOp_frame m s) :)
  | complete m e es t hr hw he hc =>
    rcases complete_hung hc with hh | ⟨hm, rfl, b, rfl⟩
    · exact .inl hh
    · exact .inr (.inr ⟨hm, b, es, hw, he⟩)
  | word w ws t hc hq ht => exact .inl (congrArg State.hung (takeWord_frame ht hc) :)
  | reset ha => exact .inr (.inl rfl)
  | _ => exact .inl rfl

/-- Settles O45: of the moves that change `HUNG`, a reset clears it. -/
theorem hungOnlyByNack : Obligations.HungOnlyByNack := by
  intro s t hstep hs ht
  rcases (step_move hstep).hung with hsame | hclear | hnack
  · rw [ht, State.turned_hung, hs] at hsame; cases hsame
  · rw [ht] at hclear; cases hclear
  · exact hnack

/-! ### The timeout (R168) -/

/-- In `LEGACY_HANG` mode, and before `POLL_TIMEOUT` ticks, there is no timeout. -/
theorem timeoutStep_notTimedOut {s : State} (h : s.NotTimedOut) : timeoutStep s = none := by
  rcases h with hm | hlt
  · simp [timeoutStep, hm]
  · simp [timeoutStep, BitVec.not_le.2 hlt]

/-- The timeout of a bus wait in `REPORT` mode that is `POLL_TIMEOUT` ticks old. -/
theorem timeoutStep_timedOut {s : State} {m : MicroOp} (hr : s.running = true) (hw : s.wst = .waiting m)
    (hb : m.isBus = true) (hm : s.params.errMode = .report) (he : s.params.pollTimeout ≤ s.elapsed) :
    timeoutStep s = some { s with st := .timeout, cpl := s.cpl ++ [.timeout], fault := .timeout } := by
  rw [timeoutStep_bus hr hw hb, if_pos ⟨hm, he⟩]

/-- A bus wait to which the environment has nothing to answer does not complete (R166). -/
theorem completeStep_unanswered {s : State} {m : MicroOp} (hw : s.wst = .waiting m) (hb : m.isBus = true)
    (he : s.envQ = []) : completeStep s = none := by
  unfold completeStep
  rw [hw, he]
  cases m with
  | delay n => cases hb
  | _ => simp

/-- A scheduled turn of the block while it waits is the timeout, if that is enabled. -/
theorem step_block_waiting {s : State} {m : MicroOp} {ts : List Turn} (hw : s.wst = .waiting m)
    (hs : s.sched = .block :: ts) :
    step s = orStay (timeoutStep { s with sched := ts }) { s with sched := ts } := by
  have hb : blockStep { s with sched := ts } = none := blockStep_waiting hw
  rw [step_turn hs, turnStep, hb, Option.none_or]

/-- Settles O46: the timeout in the default order and in the block's turn, the completion that comes before it, and
the turn in which it is not enabled. -/
theorem timeoutFollowsItsRule : Obligations.TimeoutFollowsItsRule := by
  refine ⟨fun s m h hb hm he henv => ?_, fun s m ts hr hw hs hb hm he => ?_,
    fun s t m e es h henv hc => step_completed h henv hc, fun s m ts hw hs h => ?_⟩
  · obtain ⟨hr, hw, hs⟩ := h
    simp only [step, advance, hs, defaultStep, blockStep_waiting hw, completeStep_unanswered hw hb henv,
      timeoutStep_timedOut hr hw hb hm he, Option.none_or]
  · rw [step_block_waiting hw hs, timeoutStep_timedOut (s := { s with sched := ts }) hr hw hb hm he]
    rfl
  · have ht : timeoutStep { s with sched := ts } = none := by
      rcases h with hn | ⟨n, rfl⟩
      · exact timeoutStep_notTimedOut hn
      · exact timeoutStep_delay hw
    rw [step_block_waiting hw hs, ht]
    rfl

/-! ### The tick source (R172) -/

/-- A move writes `tick` only as the tick source's. -/
theorem Move.tick_eq {a : Option Turn} {s t : State} (h : Move a s t) :
    t.tick = s.tick ∨ ∃ n, a = some (.tick n) ∧ t.tick = s.tick + n := by
  cases h with
  | issue m rest hr hw hq => exact .inl (congrArg State.tick (issueOp_frame m s) :)
  | complete m e es t hr hw he hc => left; cases complete_completion hc <;> rfl
  | word w ws t hc hq ht => exact .inl (congrArg State.tick (takeWord_frame ht hc) :)
  | tick n ha => exact .inr ⟨n, ha, rfl⟩
  | _ => exact .inl rfl

/-- Settles O54: move by move. -/
theorem onlyTheTickSourceWritesTick : Obligations.OnlyTheTickSourceWritesTick :=
  fun _ _ hstep hne => (step_move hstep).tick_eq.resolve_left hne

/-! ### Every state has a next state (R162, R165, R166) -/

/-- Every command is accepted, refused by the `FAULT` register, or not taken. -/
theorem exec_answers (i : Instr) (s : State) : ∃ t, exec i s = .next t := by
  by_cases hi : ∃ dev reg, i = .i2cRdmult dev reg 0
  · obtain ⟨dev, reg, rfl⟩ := hi
    exact ⟨_, refuseOperand_next s⟩
  · rw [exec_eq_accept fun dev reg h => hi ⟨dev, reg, h⟩]
    exact ⟨_, accept_next _ s⟩

theorem takeWord_answers (w : Word) (s : State) : ∃ t, takeWord w s = .next t := by
  unfold takeWord
  split
  · exact exec_answers _ _
  · exact ⟨_, rfl⟩
  · exact ⟨_, rfl⟩

theorem hostStep_answers (s : State) : ∃ t, hostStep s = .next t := by
  unfold hostStep
  split
  · exact ⟨_, rfl⟩
  · split
    · exact takeWord_answers _ _
    · exact ⟨_, rfl⟩

theorem turnStep_answers (a : Turn) (s : State) : ∃ t, turnStep a s = .next t := by
  cases a with
  | host => exact hostStep_answers s
  | _ => exact ⟨_, rfl⟩

theorem defaultStep_answers (s : State) : ∃ t, defaultStep s = .next t := by
  unfold defaultStep
  split
  · exact ⟨_, rfl⟩
  · exact hostStep_answers s

/-- Settles O56: in the default order and in a scheduled turn, a move that is not the host's is a next state, and the
host's word is taken or held. -/
theorem stepNeverStops : Obligations.StepNeverStops := by
  intro s
  cases hs : s.sched with
  | nil => simpa only [step, advance, hs] using defaultStep_answers s
  | cons a ts => rw [step_turn hs]; exact turnStep_answers a _

end Sys2Proof.Machine
end
